-- ==== Sys2Proof/Word.lean ====
section
/-! DEFINITION. The bit-vector types of the block: a register word, the telegram, a BCD nibble
(00_scope R4, R5; 10_state R20). -/

namespace Sys2Proof

/-- A host register value: 32 bits, bit k of weight 2^k (00_scope R4, R5). -/
abbrev Word := BitVec 32

/-- A telegram: 59 bits, bit i is telegram index i, `t[i]` (00_scope R5, 10_state R20). -/
abbrev Telegram := BitVec 59

/-- One BCD group of a command word: 4 bits (30_encoding R72). -/
abbrev Nibble := BitVec 4

end Sys2Proof
end

