-- ==== Sys2Proof/Config.lean ====
section
/-! DEFINITION. The parameters the spec fixes for every instance of the block (00_scope R4). CORE_BASE, the
one parameter it leaves open (20_memory R51, 92 D3), is a field of State: see `Machine.State.baseIndex`.
The spec leaves no result of a command open, so there is no free value here. -/

namespace Sys2Proof.Config

/-- N_BITS: telegram indices run from 0 to 58 (00_scope R4). -/
abbrev nBits : Nat := 59

/-- REG_WIDTH: the width of every host register and of every host access that has a meaning (00_scope R4,
20_memory R54). -/
abbrev regWidth : Nat := 32

/-- The register window is 8 words, 32 bytes long (20_memory R50, R51). -/
abbrev windowBytes : Nat := 32

end Sys2Proof.Config
end

