-- ==== Sys2Proof/Syntax.lean ====
section
/-! DEFINITION. The commands of the block: one constructor per row of the opcode table (30_encoding R75). -/

namespace Sys2Proof

/-- A command. The nibbles of BCD2 are bits the command word carries (30_encoding R72); the operands of PARITY are
telegram indices, numbers that are compared and counted with (30_encoding R73, R74). -/
inductive Instr where
  /-- NOP, format Z (45_decode_and_control R220). -/
  | nop
  /-- DECODE, format Z (45_decode_and_control R210). -/
  | decode
  /-- BCD2, format B: the tens nibble BH and the ones nibble BL (41_bcd R124). -/
  | bcd2 (bh bl : Nibble)
  /-- PARITY, format P: the start index S and the end index E (42_parity R142). -/
  | parity (s e : Nat)
  deriving DecidableEq, Repr

end Sys2Proof
end

