-- ==== Sys2Proof/WellFormed.lean ====
section
/-! DEFINITION. Which terms of `Instr` stand for a command word: the indices of PARITY have six bits
(30_encoding R73, R74; an assembler refuses others, R78). Indices 59 to 63 are well formed: they can be encoded
(30_encoding R74). A nibble has four bits by its type, so NOP, DECODE and BCD2 have no ill-formed term. -/

namespace Sys2Proof

/-- The operands fit the fields of their format (30_encoding R71 to R73). -/
def wellFormed : Instr → Bool
  | .nop => true
  | .decode => true
  | .bcd2 _ _ => true
  | .parity s e => decide (s ≤ 63) && decide (e ≤ 63)

/-- The term stands for a command word. -/
abbrev WellFormed (i : Instr) : Prop := wellFormed i = true

end Sys2Proof
end

