-- ==== Sys2Proof/Decode.lean ====
section
/-! DEFINITION. The command decoder and encoder (30_encoding R70 to R77). The decoder is total on 32-bit words and
rejects by name; what the block does with a rejected word is `Machine.illegalCommand` (R76). -/

namespace Sys2Proof

/-- Why a word is no command (30_encoding R76). Both reasons have the same effect on the block. -/
inductive Reject where
  /-- OP is 4 to 15 (30_encoding R76, R77). -/
  | reservedOpcode (op : Nat)
  /-- OP is 0 to 3 and a bit is set that the format of that opcode requires to be 0 (30_encoding R76). -/
  | reservedBits (op : Nat)
  deriving DecidableEq, Repr

/-- One row of the opcode table (30_encoding R75). -/
structure OpcodeRow where
  mnemonic : String
  pattern : Word
  mask : Word
  deriving DecidableEq, Repr

/-- The row matches the word: the masked word is the row's match value (30_encoding R75). -/
def OpcodeRow.hits (r : OpcodeRow) (v : Word) : Bool := v &&& r.mask == r.pattern

def rowNop : OpcodeRow := ⟨"NOP", 0x00000000#32, 0xFFFFFFFF#32⟩
def rowDecode : OpcodeRow := ⟨"DECODE", 0x00000001#32, 0xFFFFFFFF#32⟩
def rowBcd2 : OpcodeRow := ⟨"BCD2", 0x00000002#32, 0xFFFF00FF#32⟩
def rowParity : OpcodeRow := ⟨"PARITY", 0x00000003#32, 0xFFC0C0FF#32⟩

/-- The opcode map (30_encoding R75). -/
def opcodeTable : List OpcodeRow := [rowNop, rowDecode, rowBcd2, rowParity]

/-- OP = v[3:0] (30_encoding R70). -/
def opField (v : Word) : Nat := (v.extractLsb' 0 4).toNat

/-- BH = v[15:12] (30_encoding R72). -/
def bhField (v : Word) : Nibble := v.extractLsb' 12 4

/-- BL = v[11:8] (30_encoding R72). -/
def blField (v : Word) : Nibble := v.extractLsb' 8 4

/-- S = v[13:8], unsigned (30_encoding R73, R74). -/
def sField (v : Word) : Nat := (v.extractLsb' 8 6).toNat

/-- E = v[21:16], unsigned (30_encoding R73, R74). -/
def eField (v : Word) : Nat := (v.extractLsb' 16 6).toNat

/-- The matching of `Execute` (30_encoding R75); the rejection names follow R76. -/
def decode (v : Word) : Except Reject Instr :=
  if rowNop.hits v then .ok .nop
  else if rowDecode.hits v then .ok .decode
  else if rowBcd2.hits v then .ok (.bcd2 (bhField v) (blField v))
  else if rowParity.hits v then .ok (.parity (sField v) (eField v))
  else if 4 ≤ opField v then .error (.reservedOpcode (opField v))
  else .error (.reservedBits (opField v))

/-- The command word of an instruction (30_encoding R71 to R73, R75). An index above 63, which no well-formed
instruction has, keeps its low six bits (log entry 7). -/
def encode : Instr → Word
  | .nop => 0x00000000#32
  | .decode => 0x00000001#32
  | .bcd2 bh bl => 0#16 ++ bh ++ bl ++ 0#4 ++ 2#4
  | .parity s e => 0#10 ++ BitVec.ofNat 6 e ++ 0#2 ++ BitVec.ofNat 6 s ++ 0#4 ++ 3#4

/-- The decoder on a word numbered as the opcode table numbers it: a command is one 32-bit word written in one host
access (30_encoding R70), and no byte order is observable (20_memory R56), so the number is the word. A number of more
than 32 bits is no command word. -/
def decodeTableWord (_nbits w : Nat) : Option Instr :=
  if w < 2 ^ 32 then
    match decode (BitVec.ofNat 32 w) with
    | .ok i => some i
    | .error _ => none
  else none

end Sys2Proof
end

