-- ==== Sys2Proof/Machine/State.lean ====
section
/-! DEFINITION. The state of the block and of the bus around it, as plain data, and its reset value (10_state R20 to R37,
70_reset_and_hazards R270). Registers are held as their fields: a reserved bit is no state, it is a constant 0 of the view
that reads it (10_state R33; log entry 6). -/

namespace Sys2Proof.Machine

/-- STATUS.KIND (10_state R26). The codes are `Kind.code`; 5, 6 and 7 are never produced. -/
inductive Kind where
  | none
  | framing
  | parity
  | range
  | illegal
  deriving DecidableEq, Repr

/-- STATUS.CAUSE (10_state R28). The codes are `Cause.code`; 13, 14 and 15 are never produced. -/
inductive Cause where
  | none
  | frameB0
  | frameB20
  | parMin
  | parHour
  | parDate
  | rngMin
  | rngHour
  | rngDay
  | rngWday
  | rngMon
  | illCmd
  | illRange
  deriving DecidableEq, Repr

/-- STATUS (10_state R24): the outcome of the last command, and VALID. -/
structure Status where
  ok : Bool
  kind : Kind
  valid : Bool
  cause : Cause
  deriving DecidableEq, Repr

/-- TIME (10_state R29): the time part of the result slot. SUMMER is two's complement. -/
structure TimeReg where
  minute : BitVec 7
  hour : BitVec 6
  ant : Bool
  tchg : Bool
  summer : BitVec 8
  deriving DecidableEq, Repr

/-- DATE (10_state R30): the date part of the result slot. -/
structure DateReg where
  day : BitVec 6
  wday : BitVec 3
  month : BitVec 5
  year : BitVec 8
  deriving DecidableEq, Repr

/-- The eight words of the register window, in offset order (10_state section 1; names of 30_encoding R78). -/
inductive RegName where
  | telLo
  | telHi
  | cmd
  | status
  | time
  | date
  | aux
  | rsvd7
  deriving DecidableEq, Repr

/-- What the world outside does to the block: a host access of some width in bits at some byte address (20_memory R51 to
R55), or a change of the reset input (70_reset_and_hazards R270). Every width and address is there, also those that have no
meaning. Accesses carry no host identity: the block cannot tell hosts apart (20_memory R65). -/
inductive BusEvent where
  | read (width addr : Nat)
  | write (width addr : Nat) (value : BitVec width)
  | assertReset
  | releaseReset
  deriving DecidableEq, Repr

/-- Why a step stops with a fault: never. No command traps, and the block has no exception (60_exceptions R240), so this
type has no constructor. Nothing raises it (safe). -/
inductive Fault where
  deriving DecidableEq, Repr

/-- Why a step is refused: the spec gives the access no meaning (00_scope R8). Each is safe: nothing is assumed about what
the hardware would do. No command is refused. -/
inductive Refusal where
  /-- An instruction with no meaning yet; raised by an arm of `exec` only (safe). No arm raises it in this model. -/
  | notModelled (mnemonic : String)
  /-- A host access while reset is asserted (70_reset_and_hazards R270); raised by `classify` (safe). -/
  | duringReset
  /-- A host access of another width than 32 bits (20_memory R55); raised by `classify` (safe). -/
  | accessWidth
  /-- A host access at a byte address that is no multiple of 4 (20_memory R55); raised by `classify` (safe). -/
  | misaligned
  /-- A host access outside the 32 bytes of the window (00_scope R8, 20_memory R51); raised by `classify` (safe). -/
  | outOfWindow
  deriving DecidableEq, Repr

/-- The machine. `tel` to `aux` are the block's registers (10_state R20 to R32); `resetAsserted` is the reset input
(70_reset_and_hazards R270). The last three fields are the bus and the host around it: where the platform placed the
window (20_memory R51), the events still to be delivered in the order the bus delivers them (20_memory R61, R65), and the
values the host's reads have returned, oldest first (00_scope R8, R9). -/
structure State where
  tel : Telegram
  status : Status
  time : TimeReg
  date : DateReg
  aux : BitVec 8
  resetAsserted : Bool
  baseIndex : Nat
  pending : List BusEvent
  readLog : List Word
  deriving DecidableEq, Repr

/-- STATUS = 0x00000000 (10_state R37). -/
def Status.reset : Status := ⟨false, .none, false, .none⟩

/-- TIME = 0x00000000 (10_state R37). -/
def TimeReg.reset : TimeReg := ⟨0#7, 0#6, false, false, 0#8⟩

/-- DATE = 0x00000000 (10_state R37). -/
def DateReg.reset : DateReg := ⟨0#6, 0#3, 0#5, 0#8⟩

/-- The machine right after reset, in a window at CORE_BASE = 32 * `baseIndex`: every register zero (10_state R37), the
reset input released (70_reset_and_hazards R271), no access issued and none answered. -/
def State.resetAt (baseIndex : Nat) : State where
  tel := 0#59
  status := Status.reset
  time := TimeReg.reset
  date := DateReg.reset
  aux := 0#8
  resetAsserted := false
  baseIndex := baseIndex
  pending := []
  readLog := []

/-- The machine right after reset. DESIGN CHOICE: the window stands at address 0 (log entry 1); CORE_BASE is the platform's
and no statement rests on this value. -/
def State.reset : State := State.resetAt 0

end Sys2Proof.Machine
end

