-- ==== Sys2Proof/Machine/Operands.lean ====
section
/-! DEFINITION. The operand functions of the commands: telegram bits, the nibble function and BCD groups (41_bcd R120 to
R123), and the parity function (42_parity R140). -/

namespace Sys2Proof.Machine

/-- `t[i]` (00_scope R5). -/
def bitAt (t : Telegram) (i : Nat) : Bool := t.getLsbD i

/-- The nibble function, most significant bit first; no clamping (41_bcd R120). -/
def nib (b0 b1 b2 b3 : Bool) : Nat := 8 * b0.toNat + 4 * b1.toNat + 2 * b2.toNat + b3.toNat

/-- Bit `k` of the telegram group `lo..hi`, a literal 0 above the group's width (41_bcd R121). -/
def groupBit (t : Telegram) (lo hi k : Nat) : Bool := decide (lo + k ≤ hi) && bitAt t (lo + k)

/-- `F(lo, hi)`: the group's value, the lowest telegram index of weight 1 (41_bcd R122; decision D7, LSB_FIRST). -/
def groupValue (t : Telegram) (lo hi : Nat) : Nat :=
  nib (groupBit t lo hi 3) (groupBit t lo hi 2) (groupBit t lo hi 1) (groupBit t lo hi 0)

/-- A two-digit value, computed exactly; neither digit is checked (41_bcd R123). -/
def twoDigits (ones tens : Nat) : Nat := ones + 10 * tens

/-- The value of a command word's nibble, its bits passed most significant first (30_encoding R74, 41_bcd R124). -/
def nibbleValue (b : Nibble) : Nat := nib (b.getLsbD 3) (b.getLsbD 2) (b.getLsbD 1) (b.getLsbD 0)

/-- popcount of the `n` telegram bits from index `lo` upward. -/
def onesFrom (t : Telegram) (lo : Nat) : Nat → Nat
  | 0 => 0
  | n + 1 => onesFrom t lo n + (bitAt t (lo + n)).toNat

/-- `P(s, e)`: 0 when s > e, else popcount(t[s..e]) mod 2 (42_parity R140). -/
def parityOf (t : Telegram) (s e : Nat) : Nat :=
  if s > e then 0 else onesFrom t s (e + 1 - s) % 2

end Sys2Proof.Machine
end

