-- ==== Sys2Proof/Machine/Flags.lean ====
section
/-! DEFINITION. The outcome codes and the STATUS word: STATUS holds the only flags of the block (10_state R24 to R28,
R35). -/

namespace Sys2Proof.Machine

/-- The KIND codes (10_state R26). -/
def Kind.code : Kind → BitVec 3
  | .none => 0
  | .framing => 1
  | .parity => 2
  | .range => 3
  | .illegal => 4

/-- The CAUSE codes (10_state R28). -/
def Cause.code : Cause → BitVec 4
  | .none => 0
  | .frameB0 => 1
  | .frameB20 => 2
  | .parMin => 3
  | .parHour => 4
  | .parDate => 5
  | .rngMin => 6
  | .rngHour => 7
  | .rngDay => 8
  | .rngWday => 9
  | .rngMon => 10
  | .illCmd => 11
  | .illRange => 12

/-- The KIND that goes with each CAUSE (10_state R28, 60_exceptions R243). -/
def Cause.kind : Cause → Kind
  | .none => .none
  | .frameB0 | .frameB20 => .framing
  | .parMin | .parHour | .parDate => .parity
  | .rngMin | .rngHour | .rngDay | .rngWday | .rngMon => .range
  | .illCmd | .illRange => .illegal

/-- The STATUS word: OK in bit 0, KIND in 3:1, VALID in 4, CAUSE in 11:8, every other bit 0 (10_state R24). -/
def Status.word (st : Status) : Word :=
  0#20 ++ st.cause.code ++ 0#3 ++ BitVec.ofBool st.valid ++ st.kind.code ++ BitVec.ofBool st.ok

end Sys2Proof.Machine
end

