-- ==== Sys2Proof/Machine/Ops.lean ====
section
/-! DEFINITION. The named operations over the registers: the register window's words and read (20_memory R52), the two
telegram writes (20_memory R53), the two ways a command ends (60_exceptions R241, R242), the reset event
(70_reset_and_hazards R270), and the sequencing of steps. The block has no exception: `fail` is its one shared failure
outcome, and there is no return from it (60_exceptions R240, R247, R248). -/

namespace Sys2Proof.Machine

/-- Goes on with `f` after a next state; a fault or a refusal ends the run (00_scope R8). -/
def andThen {α β : Type} (o : Host.Outcome α Fault Refusal) (f : α → Host.Outcome β Fault Refusal) :
    Host.Outcome β Fault Refusal :=
  match o with
  | .next a => f a
  | .fault r => .fault r
  | .refused r => .refused r

/-- The word offset of a register (10_state section 1). -/
def RegName.offset : RegName → Nat
  | .telLo => 0
  | .telHi => 1
  | .cmd => 2
  | .status => 3
  | .time => 4
  | .date => 5
  | .aux => 6
  | .rsvd7 => 7

/-- The register at a word offset (10_state section 1). -/
def RegName.ofOffset : Nat → Option RegName
  | 0 => some .telLo
  | 1 => some .telHi
  | 2 => some .cmd
  | 3 => some .status
  | 4 => some .time
  | 5 => some .date
  | 6 => some .aux
  | 7 => some .rsvd7
  | _ => none

/-- The TIME word (10_state R29). -/
def TimeReg.word (r : TimeReg) : Word :=
  r.summer ++ 0#6 ++ BitVec.ofBool r.tchg ++ BitVec.ofBool r.ant ++ 0#2 ++ r.hour ++ 0#1 ++ r.minute

/-- The DATE word (10_state R30). -/
def DateReg.word (r : DateReg) : Word :=
  r.year ++ 0#3 ++ r.month ++ 0#5 ++ r.wday ++ 0#2 ++ r.day

/-- `RegRead(k)`: the value of a register word (20_memory R52). -/
def regRead (s : State) : RegName → Word
  | .telLo => s.tel.extractLsb' 0 32
  | .telHi => (s.tel.extractLsb' 32 27).setWidth 32
  | .cmd => 0#32
  | .status => s.status.word
  | .time => s.time.word
  | .date => s.date.word
  | .aux => s.aux.setWidth 32
  | .rsvd7 => 0#32

/-- A write of TEL_LO: t[31:0] := v, t[58:32] kept (10_state R21). -/
def writeTelLo (v : Word) (s : State) : State :=
  { s with tel := s.tel.extractLsb' 32 27 ++ v }

/-- A write of TEL_HI: t[58:32] := v[26:0], t[31:0] kept, v[31:27] ignored (10_state R22). -/
def writeTelHi (v : Word) (s : State) : State :=
  { s with tel := v.extractLsb' 0 27 ++ s.tel.extractLsb' 0 32 }

/-- `fail(k, c)`: writes STATUS.OK, KIND and CAUSE, nothing else (60_exceptions R241). -/
def fail (k : Kind) (c : Cause) (s : State) : State :=
  { s with status := { s.status with ok := false, kind := k, cause := c } }

/-- `succeed()`: writes STATUS.OK, KIND and CAUSE, nothing else (60_exceptions R242). -/
def succeed (s : State) : State :=
  { s with status := { s.status with ok := true, kind := .none, cause := .none } }

/-- AUX <- zext_32(x): the result of BCD2 or PARITY in AUX[7:0], the rest 0 (10_state R32). -/
def writeAux (x : Nat) (s : State) : State := { s with aux := BitVec.ofNat 8 x }

/-- The reset event: every register takes its reset value and stays there while reset is asserted
(70_reset_and_hazards R270). The window's place, the host's accesses and the values it has read are not the block's and stay
(log entry 5). -/
def applyReset (s : State) : State :=
  { State.resetAt s.baseIndex with pending := s.pending, readLog := s.readLog, resetAsserted := true }

/-- CORE_BASE: a multiple of 32 (20_memory R51). -/
def State.coreBase (s : State) : Nat := Config.windowBytes * s.baseIndex

/-- The byte address of a register: CORE_BASE + 4*k (20_memory R51). -/
def State.addrOf (s : State) (r : RegName) : Nat := s.coreBase + 4 * r.offset

end Sys2Proof.Machine
end

