-- ==== Sys2Proof/Machine/Bcd.lean ====
section
/-! DEFINITION. The BCD2 command (41_bcd R124). -/

namespace Sys2Proof.Machine

/-- BCD2: AUX <- zext_32(ones + 10 * tens), then success (41_bcd R124). -/
def execBcd2 (bh bl : Nibble) (s : State) : Host.Outcome State Fault Refusal :=
  .next (succeed (writeAux (twoDigits (nibbleValue bl) (nibbleValue bh)) s))

end Sys2Proof.Machine
end

