-- ==== Sys2Proof/Machine/Control.lean ====
section
/-! DEFINITION. NOP and the illegal command words (45_decode_and_control R220; 30_encoding R76). -/

namespace Sys2Proof.Machine

/-- NOP: no state change (45_decode_and_control R220). -/
def execNop (s : State) : Host.Outcome State Fault Refusal := .next s

/-- An illegal command word: a failure, ILLEGAL with ILL_CMD, and nothing else (30_encoding R76). -/
def illegalCommand (s : State) : Host.Outcome State Fault Refusal := .next (fail .illegal .illCmd s)

end Sys2Proof.Machine
end

