-- ==== Sys2Proof/Machine/Extract.lean ====
section
/-! DEFINITION. The bit-field extractor (43_field_extraction R160 to R172): exact numbers, before any check. -/

namespace Sys2Proof.Machine

/-- The extracted fields (43_field_extraction R172). -/
structure Fields where
  ant : Bool
  tchg : Bool
  summer : Int
  minute : Nat
  hour : Nat
  day : Nat
  weekday : Nat
  month : Nat
  year : Nat
  deriving DecidableEq, Repr

/-- The summer-time value, -1 to 2: t[17] has weight 2, t[18] weight 1 (43_field_extraction R165; decision D8). -/
def summerOf (t : Telegram) : Int := (nib false false (bitAt t 17) (bitAt t 18) : Int) - 1

/-- `Extract(t)` (43_field_extraction R172): no check, no failure. Bits 1 to 14 and 19 are not read (R161). -/
def extract (t : Telegram) : Fields where
  ant := bitAt t 15
  tchg := bitAt t 16
  summer := summerOf t
  minute := twoDigits (groupValue t 21 24) (groupValue t 25 27)
  hour := twoDigits (groupValue t 29 32) (groupValue t 33 34)
  day := twoDigits (groupValue t 36 39) (groupValue t 40 41)
  weekday := groupValue t 42 44
  month := twoDigits (groupValue t 45 48) (groupValue t 49 49)
  year := twoDigits (groupValue t 50 53) (groupValue t 54 57)

/-- The TIME register of a successful DECODE; SUMMER is tc_8 (45_decode_and_control R210 step 9, 10_state R29). -/
def Fields.time (f : Fields) : TimeReg where
  minute := BitVec.ofNat 7 f.minute
  hour := BitVec.ofNat 6 f.hour
  ant := f.ant
  tchg := f.tchg
  summer := BitVec.ofInt 8 f.summer

/-- The DATE register of a successful DECODE (45_decode_and_control R210 step 9, 10_state R30). -/
def Fields.date (f : Fields) : DateReg where
  day := BitVec.ofNat 6 f.day
  wday := BitVec.ofNat 3 f.weekday
  month := BitVec.ofNat 5 f.month
  year := BitVec.ofNat 8 f.year

end Sys2Proof.Machine
end

