-- ==== Sys2Proof/Machine/Parity.lean ====
section
/-! DEFINITION. The parity groups of the telegram (42_parity R141) and the PARITY command (42_parity R142, R143). -/

namespace Sys2Proof.Machine

/-- A parity group passes: its parity bit equals the computed parity (42_parity R141). -/
def parityPasses (t : Telegram) (s e p : Nat) : Bool := (bitAt t p).toNat == parityOf t s e

/-- PARITY: S > E gives 0; else an index above 58 fails with ILL_RANGE; else AUX <- P(S, E) (42_parity R142, R143). -/
def execParity (start last : Nat) (s : State) : Host.Outcome State Fault Refusal :=
  if start > last then .next (succeed (writeAux 0 s))
  else if last > 58 then .next (fail .illegal .illRange s)
  else .next (succeed (writeAux (parityOf s.tel start last) s))

end Sys2Proof.Machine
end

