-- ==== Sys2Proof/Machine/Range.lean ====
section
/-! DEFINITION. The date/time range validator (44_range_validation R190 to R196). -/

namespace Sys2Proof.Machine

/-- `Range`: the first broken bound in the order minute, hour, day, weekday, month; the bounds are loose on purpose
(44_range_validation R191 to R193). The weekday bound is kept although no telegram breaks it (R194). -/
def rangeCheck (minute hour day weekday month : Nat) : Option Cause :=
  if minute > 60 then some .rngMin
  else if hour > 24 then some .rngHour
  else if day > 31 then some .rngDay
  else if weekday > 7 then some .rngWday
  else if month > 12 then some .rngMon
  else none

end Sys2Proof.Machine
end

