-- ==== Sys2Proof/Machine/DecodeCmd.lean ====
section
/-! DEFINITION. The DECODE command (45_decode_and_control R210 to R214). -/

namespace Sys2Proof.Machine

/-- The outcome of DECODE, a function of the telegram alone: the first failing check in the order bit 0, bit 20, minute,
hour and date parity, range (00_scope R10; 45_decode_and_control R210, R211, R214). -/
def decodeFn (t : Telegram) : Except Cause Fields :=
  if bitAt t 0 then .error .frameB0
  else if !bitAt t 20 then .error .frameB20
  else if !parityPasses t 21 27 28 then .error .parMin
  else if !parityPasses t 29 34 35 then .error .parHour
  else if !parityPasses t 36 57 58 then .error .parDate
  else
    match rangeCheck (extract t).minute (extract t).hour (extract t).day (extract t).weekday (extract t).month with
    | some c => .error c
    | none => .ok (extract t)

/-- Step 9: TIME, DATE and VALID, all of them (45_decode_and_control R210, R213). -/
def commit (f : Fields) (s : State) : State :=
  { s with time := f.time, date := f.date, status := { s.status with valid := true } }

/-- DECODE: commits and succeeds, or fails with the cause of the first failing check (45_decode_and_control R210, R212). -/
def execDecode (s : State) : Host.Outcome State Fault Refusal :=
  match decodeFn s.tel with
  | .error c => .next (fail c.kind c s)
  | .ok f => .next (succeed (commit f s))

end Sys2Proof.Machine
end

