-- ==== Sys2Proof/Machine/Dispatch.lean ====
section
/-! DEFINITION. The meaning of each command: one arm per constructor of Instr (30_encoding R75). -/

namespace Sys2Proof.Machine

def exec (i : Instr) (s : State) : Host.Outcome State Fault Refusal :=
  match i with
  | .nop => Sys2Proof.Machine.execNop s
  | .decode => Sys2Proof.Machine.execDecode s
  | .bcd2 bh bl => Sys2Proof.Machine.execBcd2 bh bl s
  | .parity start last => Sys2Proof.Machine.execParity start last s

end Sys2Proof.Machine
end

