-- ==== Sys2Proof/Machine/Bus.lean ====
section
/-! DEFINITION. The bus side of the block: how a host access reaches a register (20_memory R50 to R55), what it does there
(R52, R53), and the delivery of the next event (00_scope R7, R8; 20_memory R61). -/

namespace Sys2Proof.Machine

/-- `Execute(v)`: runs the command word v (30_encoding R75, R76). -/
def execute (v : Word) (s : State) : Host.Outcome State Fault Refusal :=
  match decode v with
  | .ok i => exec i s
  | .error _ => illegalCommand s

/-- `RegWrite(k, v)` (20_memory R53). -/
def regWrite (r : RegName) (v : Word) (s : State) : Host.Outcome State Fault Refusal :=
  match r with
  | .telLo => .next (writeTelLo v s)
  | .telHi => .next (writeTelHi v s)
  | .cmd => execute v s
  | .status | .time | .date | .aux | .rsvd7 => .next s

/-- The register at a byte address of the host bus, if the address is in the window (20_memory R51). -/
def State.regAt (s : State) (addr : Nat) : Option RegName :=
  if s.coreBase ≤ addr then RegName.ofOffset ((addr - s.coreBase) / 4) else none

/-- The register a host access reaches, or why the access has no meaning (20_memory R54, R55; 00_scope R8;
70_reset_and_hazards R270). DESIGN CHOICE: where several reasons hold, the first in this order is named (log entry 3). -/
def classify (s : State) (width addr : Nat) : Except Refusal RegName :=
  if s.resetAsserted then .error .duringReset
  else if width ≠ Config.regWidth then .error .accessWidth
  else if addr % 4 ≠ 0 then .error .misaligned
  else
    match s.regAt addr with
    | none => .error .outOfWindow
    | some r => .ok r

/-- The value of a read is returned to the host and recorded; nothing else changes (00_scope R8, R9; 20_memory R52). -/
def recordRead (v : Word) (s : State) : State := { s with readLog := s.readLog ++ [v] }

/-- One event on the block (00_scope R7, R8). -/
def perform (ev : BusEvent) (s : State) : Host.Outcome State Fault Refusal :=
  match ev with
  | .read width addr =>
    match classify s width addr with
    | .error r => .refused r
    | .ok k => .next (recordRead (regRead s k) s)
  | .write width addr value =>
    match classify s width addr with
    | .error r => .refused r
    | .ok k => regWrite k (value.setWidth 32) s
  | .assertReset => .next (applyReset s)
  | .releaseReset => .next { s with resetAsserted := false }

/-- Several events, in order, each complete before the next (20_memory R61). -/
def performAll : List BusEvent → State → Host.Outcome State Fault Refusal
  | [], s => .next s
  | ev :: rest, s => andThen (perform ev s) (performAll rest)

/-- The next event the bus delivers. With none the block holds its state and does nothing (60_exceptions R254; 00_scope R9;
log entry 2). -/
def deliverNext (s : State) : Host.Outcome State Fault Refusal :=
  match s.pending with
  | [] => .next s
  | ev :: rest => perform ev { s with pending := rest }

/-- A host write of a command word to CMD. -/
def State.cmdWrite (s : State) (v : Word) : BusEvent := .write 32 (s.addrOf .cmd) v

/-- Puts a CMD write of the word first in the queue, with the reset input released. -/
def queueCommand (v : Word) (s : State) : State :=
  { s with pending := s.cmdWrite v :: s.pending, resetAsserted := false }

end Sys2Proof.Machine
end

