-- ==== Sys2Proof/Machine/Step.lean ====
section
/-! DEFINITION. One step of the machine: one host access, or one change of the reset input (00_scope R7). -/

namespace Sys2Proof.Machine

/-- One step (00_scope R7, R8). -/
def step (s : State) : Host.Outcome State Fault Refusal := deliverNext s

/-- The block fetches nothing: a command is what the host writes to CMD (20_memory R64). This is the state in which the next
access the bus delivers is the write of the word `w` to CMD, reset released (log entry 2). -/
def State.withFetchWord (s : State) (_nbits w : Nat) : State := queueCommand (BitVec.ofNat 32 w) s

end Sys2Proof.Machine
end

