-- ==== Sys2Proof/Machine/Adapters.lean ====
section
/-! DEFINITION. The host-side input adapters (40_input_adapters R100 to R104, R107): host software, outside the block; they
read and write no block state. What a character is, is a parameter (93 U13): the string adapter takes any type of characters
with the two the spec names, '0' and '1' (log entry 9). -/

namespace Sys2Proof.Machine

/-- What the host-level `decode` reports on failure (40_input_adapters R105). -/
inductive ErrorKind where
  /-- The source's `InvalidLength`, the only error of an adapter (40_input_adapters R104). -/
  | invalidLength
  | framingError
  | parityError
  | rangeError
  /-- A KIND code that names no error of the source, read after a DECODE. DECODE never leaves one (log entry 8). -/
  | unnamed (code : BitVec 3)
  deriving DecidableEq, Repr

/-- The number whose bit i is element i. -/
def bitsValue : List Bool → Nat
  | [] => 0
  | b :: bs => b.toNat + 2 * bitsValue bs

/-- The telegram with t[i] = element i (40_input_adapters R100). -/
def canonical (seq : List Bool) : Telegram := BitVec.ofNat 59 (bitsValue seq)

/-- `normBool` (40_input_adapters R101). -/
def normBool (seq : List Bool) : Except ErrorKind Telegram :=
  if seq.length ≠ 59 then .error .invalidLength else .ok (canonical seq)

/-- `normStr`: only `one` maps to 1; 58 characters are prefixed with `zero` (40_input_adapters R102). -/
def normStr {γ : Type} [DecidableEq γ] (zero one : γ) (s : List γ) : Except ErrorKind Telegram :=
  if s.length = 59 then .ok (canonical (s.map fun c => decide (c = one)))
  else if s.length = 58 then .ok (canonical ((zero :: s).map fun c => decide (c = one)))
  else .error .invalidLength

/-- `normInt`: only the value 1 maps to 1 (40_input_adapters R103). -/
def normInt (seq : List Int) : Except ErrorKind Telegram :=
  if seq.length ≠ 59 then .error .invalidLength else .ok (canonical (seq.map fun k => decide (k = 1)))

/-- The three external forms of a telegram (40_input_adapters R101 to R103). -/
inductive ExternalForm (γ : Type) where
  | bools (seq : List Bool)
  | str (s : List γ)
  | ints (seq : List Int)
  deriving DecidableEq, Repr

/-- `normInput`, the `norm` of 40_input_adapters R105: the adapter of the form. -/
def normInput {γ : Type} [DecidableEq γ] (zero one : γ) : ExternalForm γ → Except ErrorKind Telegram
  | .bools seq => normBool seq
  | .str s => normStr zero one s
  | .ints seq => normInt seq

end Sys2Proof.Machine
end

