-- ==== Sys2Proof/Machine/Assembler.lean ====
section
/-! DEFINITION. The assembler of host programs (30_encoding R78, R79): a statement is the host accesses it makes. Where the
spec leaves the text open (white space, letter case, what is malformed), log entry 10 says what is taken. -/

namespace Sys2Proof.Machine

/-- A statement (30_encoding R78) or a pseudo-instruction (R79). -/
inductive Stmt where
  | wr (r : RegName) (imm32 : Word)
  | rd (r : RegName)
  | nop
  | decode
  | bcd2 (imm8 : Nat)
  | parity (s e : Nat)
  | cmd (imm32 : Word)
  | ldtel (imm59 : Telegram)
  | ldtels (chars : List Char)
  deriving DecidableEq, Repr

/-- Why the assembler refuses a statement. -/
inductive AsmError where
  /-- `bcd2` with imm8 > 0xFF (30_encoding R78). -/
  | bcd2Range
  /-- `parity` with an index above 63 (30_encoding R78). -/
  | parityRange
  /-- `ldtels` with a length neither 58 nor 59 (30_encoding R79). -/
  | invalidLength
  /-- The line is no statement of the syntax (30_encoding R78). -/
  | malformed
  deriving DecidableEq, Repr

/-- `wr REG, v` in a window at `base` (30_encoding R78, 20_memory R51). -/
def wrAccess (base : Nat) (r : RegName) (v : Word) : BusEvent := .write 32 (base + 4 * r.offset) v

/-- The two writes of `ldtel` (30_encoding R79). -/
def ldtelAccesses (base : Nat) (bits : Telegram) : List BusEvent :=
  [wrAccess base .telLo (bits.extractLsb' 0 32), wrAccess base .telHi ((bits.extractLsb' 32 27).setWidth 32)]

/-- The accesses of a statement, or the assembler's refusal (30_encoding R78, R79). -/
def assemble (base : Nat) : Stmt → Except AsmError (List BusEvent)
  | .wr r v => .ok [wrAccess base r v]
  | .rd r => .ok [.read 32 (base + 4 * r.offset)]
  | .nop => .ok [wrAccess base .cmd 0x00000000#32]
  | .decode => .ok [wrAccess base .cmd 0x00000001#32]
  | .bcd2 imm8 =>
    if imm8 > 0xFF then .error .bcd2Range
    else .ok [wrAccess base .cmd (0x00000002#32 ||| BitVec.ofNat 32 imm8 <<< 8)]
  | .parity s e =>
    if s > 63 ∨ e > 63 then .error .parityRange
    else .ok [wrAccess base .cmd (0x00000003#32 ||| BitVec.ofNat 32 s <<< 8 ||| BitVec.ofNat 32 e <<< 16)]
  | .cmd v => .ok [wrAccess base .cmd v]
  | .ldtel bits => .ok (ldtelAccesses base bits)
  | .ldtels chars =>
    match normStr '0' '1' chars with
    | .error _ => .error .invalidLength
    | .ok bits => .ok (ldtelAccesses base bits)

/-- The accesses of a program, statement by statement (30_encoding R78). DESIGN CHOICE (log entry 14): a refused statement
refuses the whole program, under the reason of the first one. -/
def assembleAll (base : Nat) : List Stmt → Except AsmError (List BusEvent)
  | [] => .ok []
  | st :: rest =>
    match assemble base st with
    | .error e => .error e
    | .ok evs =>
      match assembleAll base rest with
      | .error e => .error e
      | .ok more => .ok (evs ++ more)

/-- A word of a line, its quoted string, or its comma. -/
inductive Token where
  | word (cs : List Char)
  | quoted (cs : List Char)
  | comma
  deriving DecidableEq, Repr

/-- The token of the characters gathered so far, last first; none of them, no token. -/
def flushWord (acc : List Char) : List Token := if acc.isEmpty then [] else [.word acc.reverse]

/-- The tokens of one line; `;` outside a string starts a comment (30_encoding R78). -/
def tokens : (inString : Bool) → (acc : List Char) → List Char → Except AsmError (List Token)
  | false, acc, [] => .ok (flushWord acc)
  | true, _, [] => .error .malformed
  | true, acc, c :: cs =>
    if c = Char.ofNat 34 then (tokens false [] cs).map (.quoted acc.reverse :: ·) else tokens true (c :: acc) cs
  | false, acc, c :: cs =>
    if c = ';' then .ok (flushWord acc)
    else if c = ' ' ∨ c = Char.ofNat 9 ∨ c = Char.ofNat 13 then (tokens false [] cs).map (flushWord acc ++ ·)
    else if c = ',' then (tokens false [] cs).map (flushWord acc ++ .comma :: ·)
    else if c = Char.ofNat 34 then (tokens true [] cs).map (flushWord acc ++ ·)
    else tokens false (c :: acc) cs

/-- The value of a digit in a base of 10 or 16. -/
def digitValue (base : Nat) (c : Char) : Option Nat :=
  if 48 ≤ c.toNat ∧ c.toNat ≤ 57 then some (c.toNat - 48)
  else if base = 16 ∧ 97 ≤ c.toNat ∧ c.toNat ≤ 102 then some (c.toNat - 87)
  else if base = 16 ∧ 65 ≤ c.toNat ∧ c.toNat ≤ 70 then some (c.toNat - 55)
  else none

/-- The value of a run of digits after the value gathered so far. -/
def digitsValue (base : Nat) : Nat → List Char → Option Nat
  | n, [] => some n
  | n, c :: cs =>
    match digitValue base c with
    | none => none
    | some d => digitsValue base (base * n + d) cs

/-- A number: decimal, or hexadecimal after `0x` (30_encoding R78). -/
def number (cs : List Char) : Option Nat :=
  if cs.take 2 = ['0', 'x'] then (if (cs.drop 2).isEmpty then none else digitsValue 16 0 (cs.drop 2))
  else if cs.isEmpty then none
  else digitsValue 10 0 cs

/-- A number that fits in `w` bits. -/
def numberOf (w : Nat) (cs : List Char) : Option (BitVec w) :=
  match number cs with
  | none => none
  | some n => if n < 2 ^ w then some (BitVec.ofNat w n) else none

/-- The register names (30_encoding R78). -/
def registerNames : List (List Char × RegName) :=
  [("TEL_LO".toList, .telLo), ("TEL_HI".toList, .telHi), ("CMD".toList, .cmd), ("STATUS".toList, .status),
    ("TIME".toList, .time), ("DATE".toList, .date), ("AUX".toList, .aux), ("RSVD7".toList, .rsvd7)]

/-- A statement that is present, or the refusal of a malformed line. -/
def orMalformed : Option Stmt → Except AsmError Stmt
  | none => .error .malformed
  | some st => .ok st

/-- The statement of one line's tokens (30_encoding R78, R79). -/
def parseTokens (ts : List Token) : Except AsmError Stmt :=
  match ts with
  | [.word w] =>
    if w = "nop".toList then .ok .nop
    else if w = "decode".toList then .ok .decode
    else .error .malformed
  | [.word w, .word a] =>
    if w = "rd".toList then orMalformed ((registerNames.lookup a).map .rd)
    else if w = "bcd2".toList then orMalformed ((number a).map .bcd2)
    else if w = "cmd".toList then orMalformed ((numberOf 32 a).map .cmd)
    else if w = "ldtel".toList then orMalformed ((numberOf 59 a).map .ldtel)
    else .error .malformed
  | [.word w, .quoted cs] => if w = "ldtels".toList then .ok (.ldtels cs) else .error .malformed
  | [.word w, .word a, .comma, .word b] =>
    if w = "wr".toList then orMalformed ((registerNames.lookup a).bind fun r => (numberOf 32 b).map (.wr r))
    else if w = "parity".toList then orMalformed ((number a).bind fun s => (number b).map (.parity s))
    else .error .malformed
  | _ => .error .malformed

/-- The statement of a line, none for a line that is empty or a comment (30_encoding R78). -/
def parseLine (line : List Char) : Except AsmError (Option Stmt) :=
  match tokens false [] line with
  | .error e => .error e
  | .ok [] => .ok none
  | .ok ts => (parseTokens ts).map some

/-- The lines of a text: one statement per line (30_encoding R78). -/
def linesOf : (acc : List Char) → List Char → List (List Char)
  | acc, [] => [acc.reverse]
  | acc, c :: cs => if c = Char.ofNat 10 then acc.reverse :: linesOf [] cs else linesOf (c :: acc) cs

/-- The statements of a program's lines. DESIGN CHOICE (log entry 14): a malformed line refuses the whole program. -/
def parseLines : List (List Char) → Except AsmError (List Stmt)
  | [] => .ok []
  | line :: rest =>
    match parseLine line with
    | .error e => .error e
    | .ok st =>
      match parseLines rest with
      | .error e => .error e
      | .ok sts => .ok (st.toList ++ sts)

/-- The accesses a program's text makes in a window at `base` (30_encoding R78, R79). DESIGN CHOICE (log entry 14): a refusal
anywhere leaves no accesses, and a malformed line on any line is reported before the refusal of a statement. -/
def assembleText (base : Nat) (text : List Char) : Except AsmError (List BusEvent) :=
  match parseLines (linesOf [] text) with
  | .error e => .error e
  | .ok sts => assembleAll base sts

end Sys2Proof.Machine
end

