-- ==== Sys2Proof/Machine/HostSide.lean ====
section
/-! DEFINITION. The host's procedures over the block: reads and writes of registers by name, `decode(x)` and `lastResult()`
(40_input_adapters R105, R106), and the observation of a run (00_scope R9). -/

namespace Sys2Proof.Machine

/-- A host write of a register (30_encoding R78 `wr`, 20_memory R51). -/
def hostWrite (r : RegName) (v : Word) (s : State) : Host.Outcome State Fault Refusal :=
  perform (.write 32 (s.addrOf r) v) s

/-- A host read of a register, with the value it returned (30_encoding R78 `rd`, 20_memory R51). -/
def hostRead (r : RegName) (s : State) : Host.Outcome (State × Word) Fault Refusal :=
  andThen (perform (.read 32 (s.addrOf r)) s) fun s' => .next (s', s'.readLog.getLastD 0#32)

/-- `ldtel`: both halves of the telegram, TEL_LO first (30_encoding R79). -/
def hostLoadTelegram (bits : Telegram) (s : State) : Host.Outcome State Fault Refusal :=
  andThen (hostWrite .telLo (bits.extractLsb' 0 32) s) (hostWrite .telHi ((bits.extractLsb' 32 27).setWidth 32))

/-- What a successful host `decode` returns: the words of TIME and DATE (40_input_adapters R105). -/
structure DecodeResult where
  time : Word
  date : Word
  deriving DecidableEq, Repr

/-- `kind_of` of the KIND code of a STATUS word (40_input_adapters R105, 10_state R26; log entry 8). -/
def kindOf (code : BitVec 3) : ErrorKind :=
  if code = 1#3 then .framingError
  else if code = 2#3 then .parityError
  else if code = 3#3 then .rangeError
  else .unnamed code

/-- `lastResult()`: TIME and DATE as they stand (40_input_adapters R106). -/
def lastResult (s : State) : Host.Outcome (State × DecodeResult) Fault Refusal :=
  andThen (hostRead .time s) fun a =>
    andThen (hostRead .date a.1) fun b => .next (b.1, ⟨a.2, b.2⟩)

/-- `decode(x)` (40_input_adapters R105). An input that fails normalization makes no access to the block (R104). -/
def hostDecode {γ : Type} [DecidableEq γ] (zero one : γ) (x : ExternalForm γ) (s : State) :
    Host.Outcome (State × Except ErrorKind DecodeResult) Fault Refusal :=
  match normInput zero one x with
  | .error e => .next (s, .error e)
  | .ok bits =>
    andThen (hostLoadTelegram bits s) fun s1 =>
      andThen (hostWrite .cmd (encode .decode) s1) fun s2 =>
        andThen (hostRead .status s2) fun a =>
          if a.2.getLsbD 0 then andThen (lastResult a.1) fun b => .next (b.1, .ok b.2)
          else .next (a.1, .error (kindOf (a.2.extractLsb' 1 3)))

/-- The observation of a run: the values the host's reads returned, and the final registers (00_scope R9). -/
structure Observation where
  reads : List Word
  tel : Telegram
  status : Word
  time : Word
  date : Word
  aux : Word
  deriving DecidableEq, Repr

/-- What can be observed of a state (00_scope R9). -/
def State.observe (s : State) : Observation :=
  ⟨s.readLog, s.tel, regRead s .status, regRead s .time, regRead s .date, regRead s .aux⟩

end Sys2Proof.Machine
end

