-- ==== Sys2Proof/Machine/Platform.lean ====
section
/-! DEFINITION. Several block instances beside each other (60_exceptions R252), and several hosts on one instance
(20_memory R65). -/

namespace Sys2Proof.Machine

/-- Any number of instances, each with its own registers, window and bus queue; no state is shared (60_exceptions R252). -/
structure Platform where
  blocks : List State
  deriving DecidableEq, Repr

/-- Instance `i` takes one step; where there is no such instance nothing happens (60_exceptions R252). -/
def Platform.stepBlock (i : Nat) (p : Platform) : Host.Outcome Platform Fault Refusal :=
  match p.blocks[i]? with
  | none => .next p
  | some s => andThen (step s) fun s' => .next ⟨p.blocks.set i s'⟩

/-- Instances take steps in any order, which is given. -/
def Platform.runOrder : List Nat → Platform → Host.Outcome Platform Fault Refusal
  | [], p => .next p
  | i :: rest, p => andThen (p.stepBlock i) (Platform.runOrder rest)

/-- The bus order of two hosts' accesses: `true` delivers the first host's next access, `false` the second's; each host's
own order is kept. Every interleaving at access granularity is one of these (20_memory R65, 93 U12). -/
def busOrder : (choices : List Bool) → (first second : List BusEvent) → List BusEvent
  | [], as, bs => as ++ bs
  | true :: cs, a :: as, bs => a :: busOrder cs as bs
  | true :: cs, [], bs => busOrder cs [] bs
  | false :: cs, as, b :: bs => b :: busOrder cs as bs
  | false :: cs, as, [] => busOrder cs as []

end Sys2Proof.Machine
end

