-- ==== Sys2Proof/Safety.lean ====
section
/-! DEFINITION. The invariant of the machine (10_state R24 to R31, 44_range_validation R194, 70_reset_and_hazards R270), and
what a run without refusals is (00_scope R8, 20_memory R54, R55). -/

namespace Sys2Proof.Machine

/-- STATUS says one thing: KIND is the kind of CAUSE, a success has no cause, RNG_WDAY is never reported, and an outcome
without success and without cause stands only before the first command (10_state R24, R28; 44_range_validation R194). -/
structure StatusConsistent (s : State) : Prop where
  kind_of_cause : s.status.kind = s.status.cause.kind
  ok_no_cause : s.status.ok = true → s.status.cause = .none
  no_weekday_cause : s.status.cause ≠ .rngWday
  untouched : s.status.ok = false → s.status.cause = .none → s.status.valid = false ∧ s.aux = 0#8

/-- VALID = 0: TIME and DATE are zero. VALID = 1: they are the result of some telegram that decodes (10_state R27). -/
structure SlotConsistent (s : State) : Prop where
  empty : s.status.valid = false → s.time = TimeReg.reset ∧ s.date = DateReg.reset
  filled : s.status.valid = true → ∃ t f, decodeFn t = .ok f ∧ s.time = f.time ∧ s.date = f.date

/-- The committed bounds of the result slot, and the largest result of AUX (10_state R31, 41_bcd R123). -/
structure WithinBounds (s : State) : Prop where
  minute : s.time.minute.toNat ≤ 60
  hour : s.time.hour.toNat ≤ 24
  day : s.date.day.toNat ≤ 31
  month : s.date.month.toNat ≤ 12
  year : s.date.year.toNat ≤ 165
  summer : -1 ≤ s.time.summer.toInt ∧ s.time.summer.toInt ≤ 2
  aux : s.aux.toNat ≤ 165

/-- While reset is asserted every register holds its reset value (70_reset_and_hazards R270). -/
def HeldInReset (s : State) : Prop :=
  s.resetAsserted = true →
    s.tel = 0#59 ∧ s.status = Status.reset ∧ s.time = TimeReg.reset ∧ s.date = DateReg.reset ∧ s.aux = 0#8

/-- The invariant. -/
structure StateInv (s : State) : Prop where
  status : StatusConsistent s
  slot : SlotConsistent s
  bounds : WithinBounds s
  reset : HeldInReset s

/-- The access has a meaning in a window at `base`: a 32-bit word, aligned, inside the 32 bytes (20_memory R51, R54). -/
def accessLegal (base width addr : Nat) : Bool :=
  decide (width = 32) && decide (addr % 4 = 0) && decide (base ≤ addr) && decide (addr < base + 32)

/-- No event of the list is refused: every access is legal and none comes while reset is asserted
(20_memory R55, 70_reset_and_hazards R270). -/
def scheduleLegal (base : Nat) : (held : Bool) → List BusEvent → Bool
  | _, [] => true
  | held, .read w a :: rest => !held && accessLegal base w a && scheduleLegal base held rest
  | held, .write w a _ :: rest => !held && accessLegal base w a && scheduleLegal base held rest
  | _, .assertReset :: rest => scheduleLegal base true rest
  | _, .releaseReset :: rest => scheduleLegal base false rest

end Sys2Proof.Machine
end

