-- ==== Sys2Proof/Certificates/Slice0/Obligations.lean ====
section
/-! DEFINITION. The statements about the block that the provers settle, each from a numbered rule of the spec or, where the
docstring says so, the model's own. -/

namespace Sys2Proof.Claims

open Sys2Proof.Machine

/-- popcount of the telegram bits s..e, inclusive (00_scope R5). -/
def popcount (t : Telegram) (s e : Nat) : Nat := (List.range' s (e + 1 - s)).countP fun i => t.getLsbD i

/-- `t[i]` as a number. -/
def tb (t : Telegram) (i : Nat) : Nat := (t.getLsbD i).toNat

/-- The telegram with bit `i` flipped. -/
def flipBit (t : Telegram) (i : Nat) : Telegram := t ^^^ BitVec.twoPow 59 i

/-- The state with the outcome fields of STATUS as `succeed()` leaves them (60_exceptions R242). -/
def withSuccess (s : State) : State :=
  { s with status := { s.status with ok := true, kind := .none, cause := .none } }

/-- The state with the outcome fields of STATUS as `fail(k, c)` leaves them (60_exceptions R241). -/
def withFailure (k : Kind) (c : Cause) (s : State) : State :=
  { s with status := { s.status with ok := false, kind := k, cause := c } }

/-- The minute by weights of its seven bits (43_field_extraction R166). -/
def minuteOf (t : Telegram) : Nat :=
  (tb t 21 + 2 * tb t 22 + 4 * tb t 23 + 8 * tb t 24) + 10 * (tb t 25 + 2 * tb t 26 + 4 * tb t 27)

/-- The hour (43_field_extraction R167). -/
def hourOf (t : Telegram) : Nat :=
  (tb t 29 + 2 * tb t 30 + 4 * tb t 31 + 8 * tb t 32) + 10 * (tb t 33 + 2 * tb t 34)

/-- The day of month (43_field_extraction R168). -/
def dayOf (t : Telegram) : Nat :=
  (tb t 36 + 2 * tb t 37 + 4 * tb t 38 + 8 * tb t 39) + 10 * (tb t 40 + 2 * tb t 41)

/-- The weekday (43_field_extraction R169). -/
def weekdayOf (t : Telegram) : Nat := tb t 42 + 2 * tb t 43 + 4 * tb t 44

/-- The month (43_field_extraction R170). -/
def monthOf (t : Telegram) : Nat :=
  (tb t 45 + 2 * tb t 46 + 4 * tb t 47 + 8 * tb t 48) + 10 * tb t 49

/-- The year (43_field_extraction R171). -/
def yearOf (t : Telegram) : Nat :=
  (tb t 50 + 2 * tb t 51 + 4 * tb t 52 + 8 * tb t 53) + 10 * (tb t 54 + 2 * tb t 55 + 4 * tb t 56 + 8 * tb t 57)

/-- The TIME word of a successful DECODE; SUMMER = 2*t[17] + t[18] - 1 in 8-bit two's complement is that value modulo 256
(45_decode_and_control R210 step 9). -/
def timeOf (t : Telegram) : Word :=
  BitVec.ofNat 32 (minuteOf t + 2 ^ 8 * hourOf t + 2 ^ 16 * tb t 15 + 2 ^ 17 * tb t 16 +
    2 ^ 24 * ((2 * tb t 17 + tb t 18 + 255) % 256))

/-- The DATE word of a successful DECODE (45_decode_and_control R210 step 9). -/
def dateOf (t : Telegram) : Word :=
  BitVec.ofNat 32 (dayOf t + 2 ^ 8 * weekdayOf t + 2 ^ 16 * monthOf t + 2 ^ 24 * yearOf t)

/-- The checks of DECODE in order, each with the cause it reports when it fails (45_decode_and_control R210, R211). -/
def failedChecks (t : Telegram) : List (Bool × Cause) :=
  [(decide (tb t 0 = 1), .frameB0), (decide (tb t 20 = 0), .frameB20),
    (decide (popcount t 21 27 % 2 ≠ tb t 28), .parMin), (decide (popcount t 29 34 % 2 ≠ tb t 35), .parHour),
    (decide (popcount t 36 57 % 2 ≠ tb t 58), .parDate), (decide (60 < minuteOf t), .rngMin),
    (decide (24 < hourOf t), .rngHour), (decide (31 < dayOf t), .rngDay), (decide (7 < weekdayOf t), .rngWday),
    (decide (12 < monthOf t), .rngMon)]

/-- The accesses of the boot order after the TEL writes: `decode`, `rd STATUS`, `rd TIME`, `rd DATE`, in a window at 32 * b
(70_reset_and_hazards R273). -/
def bootTail (b : Nat) : List BusEvent :=
  [.write 32 (32 * b + 8) 0x00000001#32, .read 32 (32 * b + 12), .read 32 (32 * b + 16), .read 32 (32 * b + 20)]

/-- The first failing check, if any. -/
def firstFailure (t : Telegram) : Option Cause := ((failedChecks t).find? fun p => p.1).map fun p => p.2

end Sys2Proof.Claims

open Sys2Proof Sys2Proof.Machine Sys2Proof.Claims

/-! ### Encoding -/

/-- The command words written out bit by bit from the encodings of 30_encoding R75 decode to the commands they stand for. -/
def Obligations.WrittenOutWordsDecode : Prop :=
  decode 0b00000000000000000000000000000000#32 = .ok .nop ∧
  decode 0b00000000000000000000000000000001#32 = .ok .decode ∧
  decode 0b00000000000000000101100100000010#32 = .ok (.bcd2 5#4 9#4) ∧
  decode 0b00000000000110110001010100000011#32 = .ok (.parity 21 27) ∧
  decode 0b00000000000000000000000000000100#32 = .error (.reservedOpcode 4) ∧
  decode 0b00000000000000000100000000000011#32 = .error (.reservedBits 3)

/-- Decoding the encoding of a well-formed instruction gives it back, for every instruction and operand. -/
def Obligations.DecodeOfEncodeIsIdentity : Prop :=
  ∀ i : Instr, WellFormed i → decode (encode i) = .ok i

/-- A word that decodes is the encoding of the one instruction it decodes to, and that instruction is well formed. -/
def Obligations.EncodeOfDecodeIsIdentity : Prop :=
  ∀ (v : Word) (i : Instr), decode v = .ok i → WellFormed i ∧ encode i = v

/-- 30_encoding R75: Execute matches the word against the four rows; exactly one row matches, or none; a matching word runs
its command with the operands of its fields, and a word no row matches is illegal. -/
def Obligations.ExecuteFollowsOpcodeMap : Prop :=
  (∀ v : Word, ∀ r ∈ opcodeTable, ∀ q ∈ opcodeTable, r.hits v = true → q.hits v = true → r = q) ∧
  ∀ (v : Word) (s : State),
    execute v s =
      if v = 0x00000000#32 then exec .nop s
      else if v = 0x00000001#32 then exec .decode s
      else if v &&& 0xFFFF00FF#32 = 0x00000002#32 then exec (.bcd2 (v.extractLsb' 12 4) (v.extractLsb' 8 4)) s
      else if v &&& 0xFFC0C0FF#32 = 0x00000003#32 then
        exec (.parity (v.extractLsb' 8 6).toNat (v.extractLsb' 16 6).toNat) s
      else .next (withFailure .illegal .illCmd s)

/-- 30_encoding R76: which words are illegal, by opcode and by bits the format requires to be 0, and what an illegal word does:
STATUS.OK, KIND and CAUSE, and nothing else. -/
def Obligations.IllegalWordsFailAndChangeNothingElse : Prop :=
  ∀ v : Word,
    ((∀ r ∈ opcodeTable, r.hits v = false) ↔
      4 ≤ (v.extractLsb' 0 4).toNat ∨
      ((v.extractLsb' 0 4).toNat ≤ 1 ∧ v.extractLsb' 4 28 ≠ 0#28) ∨
      ((v.extractLsb' 0 4).toNat = 2 ∧ (v.extractLsb' 16 16 ≠ 0#16 ∨ v.extractLsb' 4 4 ≠ 0#4)) ∨
      ((v.extractLsb' 0 4).toNat = 3 ∧
        (v.extractLsb' 22 10 ≠ 0#10 ∨ v.extractLsb' 14 2 ≠ 0#2 ∨ v.extractLsb' 4 4 ≠ 0#4))) ∧
    ((∀ r ∈ opcodeTable, r.hits v = false) → ∀ s : State,
      execute v s = .next { s with status := ⟨false, .illegal, s.status.valid, .illCmd⟩ })

/-! ### The commands -/

/-- 45_decode_and_control R220: NOP is the zero word, assembled from `nop`, and changes no state; STATUS keeps describing
the command before it. -/
def Obligations.NopChangesNothing : Prop :=
  (∀ s : State, exec .nop s = .next s) ∧ (∀ v : Word, decode v = .ok .nop ↔ v = 0x00000000#32) ∧
    ∀ base : Nat, assemble base .nop = .ok [.write 32 (base + 8) 0x00000000#32]

/-- 41_bcd R124: BCD2 completes in every state with every pair of nibbles, AUX takes ones + 10 * tens, OK, KIND and CAUSE
record success, and everything else keeps its value; the AUX word reads back that number; a word of opcode 2 with a bit set in
31:16 or 7:4 is no BCD2 but illegal, and AUX stays. `bcd2 imm8` assembles to the word with imm8 in 15:8. -/
def Obligations.Bcd2WritesBinaryValue : Prop :=
  (∀ (bh bl : Nibble) (s : State), ∃ t, exec (.bcd2 bh bl) s = .next t ∧
    t = withSuccess { s with aux := BitVec.ofNat 8 (bl.toNat + 10 * bh.toNat) } ∧
    (regRead t .aux).toNat = bl.toNat + 10 * bh.toNat) ∧
  (∀ v : Word, (v.extractLsb' 0 4).toNat = 2 →
    (v &&& 0xFFFF00FF#32 = 0x00000002#32 → decode v = .ok (.bcd2 (v.extractLsb' 12 4) (v.extractLsb' 8 4))) ∧
    ((v.extractLsb' 16 16 ≠ 0#16 ∨ v.extractLsb' 4 4 ≠ 0#4) →
      ∀ s : State, execute v s = .next (withFailure .illegal .illCmd s))) ∧
  ∀ base imm8 : Nat, imm8 ≤ 0xFF → ∃ v : Word, assemble base (.bcd2 imm8) = .ok [.write 32 (base + 8) v] ∧
    v &&& 0xFFFF00FF#32 = 0x00000002#32 ∧ (v.extractLsb' 8 8).toNat = imm8

/-- 41_bcd R125: BCD2 gives the number the extractor gives for a year field whose groups hold the same nibbles. -/
def Obligations.Bcd2EqualsYearField : Prop :=
  ∀ (tel : Telegram) (bh bl : Nibble) (s : State),
    (∀ k < 4, tel.getLsbD (50 + k) = bl.getLsbD k) → (∀ k < 4, tel.getLsbD (54 + k) = bh.getLsbD k) →
    (extract tel).year = groupValue tel 50 53 + 10 * groupValue tel 54 57 ∧
    ∃ t, exec (.bcd2 bh bl) s = .next t ∧ (regRead t .aux).toNat = (extract tel).year

/-- 42_parity R142 and R143: PARITY completes in every state. S > E: AUX is 0 and the command succeeds; else E > 58: the
command fails with ILLEGAL, ILL_RANGE, and AUX stays; else AUX is the parity of t[S..E] and the command succeeds. Nothing else
changes, and TEL, TIME, DATE and VALID never do. A word of opcode 3 with a reserved bit set is no PARITY but illegal.
`parity s, e` assembles to the word with s in 13:8 and e in 21:16. -/
def Obligations.ParityCommandHasThreeOutcomes : Prop :=
  (∀ (a b : Nat) (s : State),
    (a > b → exec (.parity a b) s = .next (withSuccess { s with aux := 0#8 })) ∧
    (a ≤ b → b > 58 → exec (.parity a b) s = .next (withFailure .illegal .illRange s)) ∧
    (a ≤ b → b ≤ 58 →
      exec (.parity a b) s = .next (withSuccess { s with aux := BitVec.ofNat 8 (popcount s.tel a b % 2) }))) ∧
  (∀ v : Word, (v.extractLsb' 0 4).toNat = 3 →
    (v &&& 0xFFC0C0FF#32 = 0x00000003#32 →
      decode v = .ok (.parity (v.extractLsb' 8 6).toNat (v.extractLsb' 16 6).toNat)) ∧
    ((v.extractLsb' 22 10 ≠ 0#10 ∨ v.extractLsb' 14 2 ≠ 0#2 ∨ v.extractLsb' 4 4 ≠ 0#4) →
      ∀ s : State, execute v s = .next (withFailure .illegal .illCmd s))) ∧
  ∀ base a b : Nat, a ≤ 63 → b ≤ 63 → ∃ v : Word, assemble base (.parity a b) = .ok [.write 32 (base + 8) v] ∧
    v &&& 0xFFC0C0FF#32 = 0x00000003#32 ∧ (v.extractLsb' 8 6).toNat = a ∧ (v.extractLsb' 16 6).toNat = b

/-- 45_decode_and_control R210: DECODE completes in every state. With no failing check it writes all of TIME and DATE, sets
VALID and succeeds; otherwise it writes OK, KIND and CAUSE of the first failing check and nothing else. Its word is exactly
0x00000001, assembled from `decode`. -/
def Obligations.DecodeCommitsOrReportsFirstFailure : Prop :=
  (∀ v : Word, decode v = .ok .decode ↔ v = 0x00000001#32) ∧
  (∀ base : Nat, assemble base .decode = .ok [.write 32 (base + 8) 0x00000001#32]) ∧
  ∀ s : State, ∃ t, exec .decode s = .next t ∧
    t.tel = s.tel ∧ t.aux = s.aux ∧ t.resetAsserted = s.resetAsserted ∧ t.baseIndex = s.baseIndex ∧
    t.pending = s.pending ∧ t.readLog = s.readLog ∧
    match firstFailure s.tel with
    | none => regRead t .time = timeOf s.tel ∧ regRead t .date = dateOf s.tel ∧ t.status = ⟨true, .none, true, .none⟩
    | some c => t.time = s.time ∧ t.date = s.date ∧ t.status = ⟨false, c.kind, s.status.valid, c⟩

/-- 60_exceptions R245: the outcome of DECODE is the first failing check in the order FRAME_B0, FRAME_B20, PAR_MIN, PAR_HOUR,
PAR_DATE, then minute, hour, day, weekday, month. -/
def Obligations.FirstFailingCheckIsReported : Prop :=
  ∀ (t : Telegram) (c : Cause), decodeFn t = .error c ↔ firstFailure t = some c

/-- 45_decode_and_control R212: a failed DECODE leaves TIME, DATE and VALID as they were. -/
def Obligations.FailedDecodeKeepsResultSlot : Prop :=
  ∀ (s : State) (c : Cause), firstFailure s.tel = some c → ∃ t, exec .decode s = .next t ∧
    t.time = s.time ∧ t.date = s.date ∧ t.status.valid = s.status.valid ∧ t.aux = s.aux ∧ t.tel = s.tel ∧
    t.status.ok = false ∧ t.status.cause = c

/-- 45_decode_and_control R213: after a successful DECODE no field of TIME or DATE depends on what stood there before, and the
reserved bits are 0. -/
def Obligations.SuccessfulDecodeOverwritesSlot : Prop :=
  ∀ (s : State) (tm : TimeReg) (dt : DateReg), firstFailure s.tel = none → ∃ t u, exec .decode s = .next t ∧
    exec .decode { s with time := tm, date := dt } = .next u ∧ t.time = u.time ∧ t.date = u.date ∧
    regRead t .time &&& 0x00FCC080#32 = 0#32 ∧ regRead t .date &&& 0x00E0F8C0#32 = 0#32

/-- 45_decode_and_control R214: DECODE reads only TEL: two states with the same telegram get the same outcome fields and, on
success, the same TIME, DATE and VALID, whatever else differs. -/
def Obligations.DecodeDependsOnTelegramAlone : Prop :=
  ∀ s u : State, s.tel = u.tel → ∃ s' u', exec .decode s = .next s' ∧ exec .decode u = .next u' ∧
    s'.status.ok = u'.status.ok ∧ s'.status.kind = u'.status.kind ∧ s'.status.cause = u'.status.cause ∧
    (s'.status.ok = true →
      s'.time = u'.time ∧ s'.date = u'.date ∧ s'.status.valid = true ∧ u'.status.valid = true)

/-- 43_field_extraction R161: telegrams that differ only in bits 1 to 14 and 19 have the same DECODE outcome and the same
values written; PARITY still reads those bits. -/
def Obligations.IgnoredBitsDoNotAffectDecode : Prop :=
  (∀ (s : State) (u : Telegram), (∀ i < 59, ¬(1 ≤ i ∧ i ≤ 14) → i ≠ 19 → s.tel.getLsbD i = u.getLsbD i) →
    ∃ t, exec .decode s = .next t ∧ exec .decode { s with tel := u } = .next { t with tel := u }) ∧
  ∀ (s : State) (i : Nat), ((1 ≤ i ∧ i ≤ 14) ∨ i = 19) →
    ∃ t, exec (.parity i i) s = .next t ∧ (regRead t .aux).toNat = tb s.tel i

/-- 43_field_extraction R162: with t[0] = 1 DECODE fails with FRAMING, FRAME_B0, regardless of all other bits; with t[0] = 0
this check passes. -/
def Obligations.StartBitSetAlwaysRejected : Prop :=
  ∀ s : State,
    (s.tel.getLsbD 0 = true → exec .decode s = .next (withFailure .framing .frameB0 s)) ∧
    (s.tel.getLsbD 0 = false → ∃ t, exec .decode s = .next t ∧ t.status.cause ≠ .frameB0)

/-- 43_field_extraction R163: a telegram with t[20] = 0 is rejected with FRAMING; the cause is FRAME_B20 unless t[0] = 1 too,
and then it is FRAME_B0; with t[20] = 1 this check passes. -/
def Obligations.MissingTimeMarkerAlwaysRejected : Prop :=
  ∀ s : State,
    (s.tel.getLsbD 20 = false →
      exec .decode s = .next (withFailure .framing (if s.tel.getLsbD 0 then .frameB0 else .frameB20) s)) ∧
    (s.tel.getLsbD 20 = true → ∃ t, exec .decode s = .next t ∧ t.status.cause ≠ .frameB20)

/-- 45_decode_and_control R215 (properties 8.1 and 8.9): a telegram decodes exactly when both framing bits, all three even
parity groups and all five bounds hold, to the fields of the layout table. -/
def Obligations.DecodesExactlyWhenAllChecksHold : Prop :=
  ∀ (t : Telegram) (f : Fields), decodeFn t = .ok f ↔
    (tb t 0 = 0 ∧ tb t 20 = 1 ∧ (popcount t 21 27 + tb t 28) % 2 = 0 ∧ (popcount t 29 34 + tb t 35) % 2 = 0 ∧
      (popcount t 36 57 + tb t 58) % 2 = 0 ∧ minuteOf t ≤ 60 ∧ hourOf t ≤ 24 ∧ dayOf t ≤ 31 ∧ weekdayOf t ≤ 7 ∧
      monthOf t ≤ 12 ∧ f = extract t)

/-- 45_decode_and_control R215 (property 8.4): flipping one data bit of a parity group of a telegram that decodes makes DECODE
fail with that group's parity cause, and completes. -/
def Obligations.SingleBitFlipIsCaught : Prop :=
  ∀ (s : State) (f : Fields) (i : Nat), decodeFn s.tel = .ok f →
    (21 ≤ i → i ≤ 27 → exec .decode { s with tel := flipBit s.tel i } =
      .next (withFailure .parity .parMin { s with tel := flipBit s.tel i })) ∧
    (29 ≤ i → i ≤ 34 → exec .decode { s with tel := flipBit s.tel i } =
      .next (withFailure .parity .parHour { s with tel := flipBit s.tel i })) ∧
    (36 ≤ i → i ≤ 57 → exec .decode { s with tel := flipBit s.tel i } =
      .next (withFailure .parity .parDate { s with tel := flipBit s.tel i }))

/-! ### The units behind DECODE -/

/-- 41_bcd R122: the value of a group of 1 to 4 telegram bits is the unsigned number those bits make with the lowest index of
weight 1. -/
def Obligations.GroupValueIsLsbFirst : Prop :=
  ∀ (t : Telegram) (lo w : Nat), 1 ≤ w → w ≤ 4 → groupValue t lo (lo + w - 1) = (t.extractLsb' lo w).toNat

/-- 43_field_extraction R172: the extractor's fields, each by the weights of its bits. -/
def Obligations.ExtractReadsTheLayoutTable : Prop :=
  ∀ t : Telegram,
    (extract t).ant = t.getLsbD 15 ∧ (extract t).tchg = t.getLsbD 16 ∧
    (extract t).summer = 2 * (tb t 17 : Int) + (tb t 18 : Int) - 1 ∧ (extract t).minute = minuteOf t ∧
    (extract t).hour = hourOf t ∧ (extract t).day = dayOf t ∧ (extract t).weekday = weekdayOf t ∧
    (extract t).month = monthOf t ∧ (extract t).year = yearOf t

/-- 10_state R31: the largest values the bits give, every register field holds its value without loss before any check, and
the largest values a successful DECODE commits; both rows of largest values are reached. -/
def Obligations.RegisterFieldsNeverOverflow : Prop :=
  ∀ t : Telegram,
    ((extract t).minute ≤ 85 ∧ (extract t).hour ≤ 45 ∧ (extract t).day ≤ 45 ∧ (extract t).weekday ≤ 7 ∧
      (extract t).month ≤ 25 ∧ (extract t).year ≤ 165 ∧ -1 ≤ (extract t).summer ∧ (extract t).summer ≤ 2) ∧
    (extract t).time.minute.toNat = (extract t).minute ∧ (extract t).time.hour.toNat = (extract t).hour ∧
    (extract t).time.summer.toInt = (extract t).summer ∧ (extract t).date.day.toNat = (extract t).day ∧
    (extract t).date.wday.toNat = (extract t).weekday ∧ (extract t).date.month.toNat = (extract t).month ∧
    (extract t).date.year.toNat = (extract t).year ∧
    (∀ f, decodeFn t = .ok f → f.minute ≤ 60 ∧ f.hour ≤ 24 ∧ f.day ≤ 31 ∧ f.weekday ≤ 7 ∧ f.month ≤ 12 ∧ f.year ≤ 165 ∧
      -1 ≤ f.summer ∧ f.summer ≤ 2) ∧
    (∃ u, (extract u).minute = 85 ∧ (extract u).hour = 45 ∧ (extract u).day = 45 ∧ (extract u).weekday = 7 ∧
      (extract u).month = 25 ∧ (extract u).year = 165 ∧ (extract u).summer = 2) ∧
    ∃ u f, decodeFn u = .ok f ∧ f.minute = 60 ∧ f.hour = 24 ∧ f.day = 31 ∧ f.weekday = 7 ∧ f.month = 12 ∧ f.year = 165 ∧
      f.summer = 2

/-- 44_range_validation R193: the validator reports the first broken bound in the order minute, hour, day, weekday, month,
and the KIND is RANGE whichever it is. -/
def Obligations.RangeReportsFirstBrokenBound : Prop :=
  ∀ minute hour day weekday month : Nat,
    rangeCheck minute hour day weekday month =
      ((([(60 < minute, Cause.rngMin), (24 < hour, .rngHour), (31 < day, .rngDay), (7 < weekday, .rngWday),
        (12 < month, .rngMon)] : List (Bool × Cause)).find? fun p => p.1).map fun p => p.2) ∧
    ∀ c, rangeCheck minute hour day weekday month = some c → c.kind = .range

/-- 44_range_validation R194: no telegram breaks the weekday bound, so RNG_WDAY is never reported, and dropping the check would
change nothing. -/
def Obligations.WeekdayBoundNeverRejects : Prop :=
  ∀ t : Telegram, (extract t).weekday ≤ 7 ∧ decodeFn t ≠ .error .rngWday ∧
    ∀ minute hour day month, rangeCheck minute hour day (extract t).weekday month = rangeCheck minute hour day 0 month

/-- 42_parity R140: P(s, e) is 0 when s > e, else the popcount of t[s..e] modulo 2; P(s, s) = t[s]. -/
def Obligations.ParityIsPopcountModTwo : Prop :=
  ∀ (t : Telegram) (s e : Nat),
    parityOf t s e = (if s > e then 0 else popcount t s e % 2) ∧ parityOf t s s = tb t s

/-- 42_parity R144: flipping one bit of a group changes P; flipping the parity bit alone also makes a passing group fail;
flipping two bits of one group, counting its parity bit, leaves the verdict. -/
def Obligations.ParityDetectsSingleBitErrors : Prop :=
  ∀ (t : Telegram) (s e p : Nat), e ≤ 58 → p ≤ 58 → ¬(s ≤ p ∧ p ≤ e) →
    (∀ i, s ≤ i → i ≤ e → parityOf (flipBit t i) s e ≠ parityOf t s e ∧
      (parityPasses t s e p = true → parityPasses (flipBit t i) s e p = false)) ∧
    (parityPasses t s e p = true → parityPasses (flipBit t p) s e p = false) ∧
    (∀ i j, i ≠ j → ((s ≤ i ∧ i ≤ e) ∨ i = p) → ((s ≤ j ∧ j ≤ e) ∨ j = p) →
      parityPasses (flipBit (flipBit t i) j) s e p = parityPasses t s e p)

/-! ### Registers and accesses -/

/-- 10_state R24, R29 and R30: the bits of the STATUS, TIME and DATE words, field by field, and that a host write to each is
ignored. -/
def Obligations.StatusTimeDateLayout : Prop :=
  ∀ s : State,
    (regRead s .status).toNat = s.status.ok.toNat + 2 * s.status.kind.code.toNat + 2 ^ 4 * s.status.valid.toNat +
      2 ^ 8 * s.status.cause.code.toNat ∧
    (regRead s .time).toNat = s.time.minute.toNat + 2 ^ 8 * s.time.hour.toNat + 2 ^ 16 * s.time.ant.toNat +
      2 ^ 17 * s.time.tchg.toNat + 2 ^ 24 * s.time.summer.toNat ∧
    (regRead s .date).toNat = s.date.day.toNat + 2 ^ 8 * s.date.wday.toNat + 2 ^ 16 * s.date.month.toNat +
      2 ^ 24 * s.date.year.toNat ∧
    ∀ v : Word, regWrite .status v s = .next s ∧ regWrite .time v s = .next s ∧ regWrite .date v s = .next s

/-- 10_state R26 and R28: the codes of KIND and CAUSE and the KIND that goes with each CAUSE; KIND 5 to 7 and CAUSE 13 to 15
are never produced. -/
def Obligations.OutcomeCodes : Prop :=
  (Kind.code .none = 0 ∧ Kind.code .framing = 1 ∧ Kind.code .parity = 2 ∧ Kind.code .range = 3 ∧ Kind.code .illegal = 4) ∧
  (Cause.code .none = 0 ∧ Cause.code .frameB0 = 1 ∧ Cause.code .frameB20 = 2 ∧ Cause.code .parMin = 3 ∧
    Cause.code .parHour = 4 ∧ Cause.code .parDate = 5 ∧ Cause.code .rngMin = 6 ∧ Cause.code .rngHour = 7 ∧
    Cause.code .rngDay = 8 ∧ Cause.code .rngWday = 9 ∧ Cause.code .rngMon = 10 ∧ Cause.code .illCmd = 11 ∧
    Cause.code .illRange = 12) ∧
  (∀ k : Kind, k.code.toNat ≤ 4) ∧ (∀ c : Cause, c.code.toNat ≤ 12) ∧
  (∀ c : Cause, c.kind.code.toNat =
    if c.code.toNat = 0 then 0 else if c.code.toNat ≤ 2 then 1 else if c.code.toNat ≤ 5 then 2
    else if c.code.toNat ≤ 10 then 3 else 4) ∧
  (∀ c d : Cause, c.code = d.code → c = d)

/-- 20_memory R52: a 32-bit read of word offset k returns the value of that register and changes nothing of the block; the
model records the returned value (log entry 4). -/
def Obligations.ReadsReturnRegistersWithoutSideEffect : Prop :=
  ∀ s : State, s.resetAsserted = false → ∀ k < 8,
    perform (.read 32 (32 * s.baseIndex + 4 * k)) s =
      .next { s with readLog := s.readLog ++
        [([BitVec.ofNat 32 s.tel.toNat, BitVec.ofNat 32 (s.tel.toNat / 2 ^ 32), 0#32, s.status.word, s.time.word,
          s.date.word, BitVec.ofNat 32 s.aux.toNat, 0#32] : List Word).getD k 0#32] }

/-- 20_memory R53: a 32-bit write of word offset k: 0 and 1 write their half of TEL bit by bit, 2 executes the command word,
3 to 7 have no effect. -/
def Obligations.WritesFollowTheRegisterMap : Prop :=
  ∀ (s : State) (v : Word), s.resetAsserted = false →
    (∃ x, perform (.write 32 (32 * s.baseIndex) v) s = .next { s with tel := x } ∧
      ∀ i < 59, x.getLsbD i = if i < 32 then v.getLsbD i else s.tel.getLsbD i) ∧
    (∃ x, perform (.write 32 (32 * s.baseIndex + 4) v) s = .next { s with tel := x } ∧
      ∀ i < 59, x.getLsbD i = if i < 32 then s.tel.getLsbD i else v.getLsbD (i - 32)) ∧
    perform (.write 32 (32 * s.baseIndex + 8) v) s = execute v s ∧
    ∀ k, 3 ≤ k → k ≤ 7 → perform (.write 32 (32 * s.baseIndex + 4 * k) v) s = .next s

/-- 10_state R21 and R22: what is written to TEL_LO reads back whole, what is written to TEL_HI reads back with bits 31:27 as
0, and each write leaves the other half. -/
def Obligations.TelegramHalvesReadBack : Prop :=
  ∀ (s : State) (v : Word),
    (∃ t, regWrite .telLo v s = .next t ∧ regRead t .telLo = v ∧ regRead t .telHi = regRead s .telHi ∧
      ∀ i < 32, t.tel.getLsbD i = v.getLsbD i) ∧
    (∃ t, regWrite .telHi v s = .next t ∧ regRead t .telHi = v &&& 0x07FFFFFF#32 ∧ regRead t .telLo = regRead s .telLo ∧
      ∀ j < 27, t.tel.getLsbD (32 + j) = v.getLsbD j)

/-- 20_memory R58: side effects by offset. Reads leave every register; repeating a TEL write changes nothing more; writes to
offsets 3 to 7 have no effect; a write to CMD is the command; a repeated DECODE leaves what one DECODE leaves. -/
def Obligations.SideEffectsByOffset : Prop :=
  (∀ (s t : State) (w a : Nat), perform (.read w a) s = .next t → { t with readLog := s.readLog } = s) ∧
  (∀ (s : State) (v : Word), ∃ t u, regWrite .telLo v s = .next t ∧ regWrite .telLo v t = .next t ∧
    regWrite .telHi v s = .next u ∧ regWrite .telHi v u = .next u) ∧
  (∀ (s : State) (v : Word) (r : RegName), 3 ≤ r.offset → regWrite r v s = .next s) ∧
  (∀ (s : State) (v : Word), regWrite .cmd v s = execute v s) ∧
  (∀ s : State, ∃ t, exec .decode s = .next t ∧ exec .decode t = .next t)

/-- 20_memory R55: an access of another width than 32 bits, or at a byte address that is no multiple of 4, is refused in every
state; no effect is assumed. -/
def Obligations.BrokenAccessesAreRefused : Prop :=
  ∀ (s : State) (w a : Nat) (x : BitVec w), (w ≠ 32 ∨ a % 4 ≠ 0) →
    (∃ r, perform (.read w a) s = .refused r) ∧ (∃ r, perform (.write w a x) s = .refused r)

/-- 00_scope R8 and 20_memory R51: with reset released, an aligned 32-bit access is accepted exactly inside the 32 bytes from
CORE_BASE; outside it is refused by name. The name and the order of the tests are the model's (log entry 3). -/
def Obligations.WindowBoundsTheAcceptedAddresses : Prop :=
  ∀ (s : State) (a : Nat) (v : Word), s.resetAsserted = false → a % 4 = 0 →
    (32 * s.baseIndex ≤ a ∧ a < 32 * s.baseIndex + 32 →
      (∃ t, perform (.read 32 a) s = .next t) ∧ ∃ t, perform (.write 32 a v) s = .next t) ∧
    (¬(32 * s.baseIndex ≤ a ∧ a < 32 * s.baseIndex + 32) →
      perform (.read 32 a) s = .refused .outOfWindow ∧ perform (.write 32 a v) s = .refused .outOfWindow)

/-! ### Steps, order, reset -/

/-- A step with a CMD write first in the queue, reset released, runs the decoded command on the state from which that one
access is taken; an illegal word fails there; with nothing queued the state stays (log entry 2). -/
def Obligations.StepRunsTheWrittenCommand : Prop :=
  (∀ (s : State) (v : Word) (i : Instr) (rest : List BusEvent), s.resetAsserted = false →
    s.pending = .write 32 (32 * s.baseIndex + 8) v :: rest → decode v = .ok i →
    step s = exec i { s with pending := rest }) ∧
  (∀ (s : State) (v : Word) (e : Reject) (rest : List BusEvent), s.resetAsserted = false →
    s.pending = .write 32 (32 * s.baseIndex + 8) v :: rest → decode v = .error e →
    step s = .next (withFailure .illegal .illCmd { s with pending := rest })) ∧
  (∀ s : State, s.pending = [] → step s = .next s)

/-- 20_memory R61: as many steps as there are accesses perform them one at a time, in the order of the queue, each on the state
the one before it left. The queue, which also holds the reset events, is the model's (log entry 2). -/
def Obligations.StepsPerformAccessesInOrder : Prop :=
  ∀ s : State, Host.Core.run Sys2Proof.core s.pending.length s = performAll s.pending { s with pending := [] }

/-- 00_scope R8 and 20_memory R54: a run whose accesses are all aligned words inside the window, none of them while reset is
asserted, is never refused, whatever command words it writes. -/
def Obligations.LegalSchedulesNeverStop : Prop :=
  ∀ (s : State) (evs : List BusEvent), scheduleLegal (32 * s.baseIndex) s.resetAsserted evs = true →
    ∃ t, performAll evs s = .next t

/-- 10_state R37: after reset every storage register holds zero and every register word reads zero, wherever the window is. -/
def Obligations.ResetLeavesEveryRegisterZero : Prop :=
  ∀ b : Nat, (State.resetAt b).tel = 0#59 ∧ (State.resetAt b).status = ⟨false, .none, false, .none⟩ ∧
    (State.resetAt b).time = ⟨0#7, 0#6, false, false, 0#8⟩ ∧ (State.resetAt b).date = ⟨0#6, 0#3, 0#5, 0#8⟩ ∧
    (State.resetAt b).aux = 0#8 ∧ ∀ r : RegName, regRead (State.resetAt b) r = 0x00000000#32

/-- 70_reset_and_hazards R270 and R271: asserting reset, in any state, sets every register to its reset value; while it is
asserted every access is refused; releasing it changes nothing else. The model's own choices: that reset is these two events and
that the window, the queue and the read record stay (log entry 5); the refusal's name and that it comes before every other
reason (log entry 3). -/
def Obligations.ResetEventSetsRegistersAndRefusesAccesses : Prop :=
  (∀ s : State, perform .assertReset s =
    .next { s with tel := 0#59, status := ⟨false, .none, false, .none⟩, time := ⟨0#7, 0#6, false, false, 0#8⟩,
                   date := ⟨0#6, 0#3, 0#5, 0#8⟩, aux := 0#8, resetAsserted := true }) ∧
  (∀ s : State, perform .releaseReset s = .next { s with resetAsserted := false }) ∧
  (∀ (s : State) (w a : Nat) (x : BitVec w), s.resetAsserted = true →
    perform (.read w a) s = .refused .duringReset ∧ perform (.write w a x) s = .refused .duringReset)

/-- 70_reset_and_hazards R273: a DECODE after reset, before any TEL write, fails with FRAME_B20; the boot order, the two TEL
writes in either order, DECODE and the reads, decodes the written telegram. -/
def Obligations.BootOrderDecodesTheWrittenTelegram : Prop :=
  ∀ b : Nat,
    (∃ t, exec .decode (State.resetAt b) = .next t ∧ regRead t .status = 0x00000202#32 ∧
      regRead t .time = 0#32 ∧ regRead t .date = 0#32) ∧
    ∀ bits : Telegram, ∃ t,
      performAll ([.write 32 (32 * b) (bits.extractLsb' 0 32), .write 32 (32 * b + 4) ((bits.extractLsb' 32 27).setWidth 32)]
        ++ bootTail b) (State.resetAt b) = .next t ∧
      performAll ([.write 32 (32 * b + 4) ((bits.extractLsb' 32 27).setWidth 32), .write 32 (32 * b) (bits.extractLsb' 0 32)]
        ++ bootTail b) (State.resetAt b) = .next t ∧
      t.readLog =
        match firstFailure bits with
        | none => [0x00000011#32, timeOf bits, dateOf bits]
        | some c => [BitVec.ofNat 32 (2 * c.kind.code.toNat + 2 ^ 8 * c.code.toNat), 0#32, 0#32]

/-- The invariant holds right after reset, wherever the window is. -/
def Obligations.ResetMeetsInvariant : Prop := ∀ b : Nat, StateInv (State.resetAt b)

/-- Every step keeps the invariant: STATUS is consistent, the result slot is zero before the first success and afterwards the
result of a telegram that decodes, the committed bounds hold, and registers stay at reset while reset is asserted. -/
def Obligations.EveryStepKeepsInvariant : Prop :=
  ∀ s t : State, StateInv s → step s = .next t → StateInv t

/-! ### Whole-machine rules -/

/-- 10_state R20: no command writes TEL, and only a host write of TEL_LO or TEL_HI, or reset, changes it. -/
def Obligations.OnlyTelWritesChangeTheTelegram : Prop :=
  (∀ (v : Word) (s t : State), execute v s = .next t → t.tel = s.tel) ∧
  ∀ s t : State, step s = .next t → t.tel ≠ s.tel →
    ∃ rest, s.pending = .assertReset :: rest ∨
      ∃ v : Word, s.pending = .write 32 (32 * s.baseIndex) v :: rest ∨
        s.pending = .write 32 (32 * s.baseIndex + 4) v :: rest

/-- 10_state R35: STATUS.OK, KIND and CAUSE are written only by commands other than NOP (and reset), VALID only by a
successful DECODE and by reset. -/
def Obligations.OnlyCommandsWriteStatus : Prop :=
  ∀ s t : State, step s = .next t →
    ((t.status.ok, t.status.kind, t.status.cause) ≠ (s.status.ok, s.status.kind, s.status.cause) →
      ∃ rest, s.pending = .assertReset :: rest ∨
        ∃ v : Word, v ≠ 0x00000000#32 ∧ s.pending = .write 32 (32 * s.baseIndex + 8) v :: rest) ∧
    (t.status.valid ≠ s.status.valid →
      ∃ rest, s.pending = .assertReset :: rest ∨
        (s.pending = .write 32 (32 * s.baseIndex + 8) 0x00000001#32 :: rest ∧ firstFailure s.tel = none ∧
          t.status.valid = true))

/-- 70_reset_and_hazards R272: only reset clears VALID, TIME and DATE: a step from VALID = 1 that is no reset keeps VALID, and
keeps TIME and DATE unless it is a successful DECODE, which writes its own result. -/
def Obligations.OnlyResetClearsTheResultSlot : Prop :=
  ∀ s t : State, step s = .next t → s.status.valid = true →
    (∃ rest, s.pending = .assertReset :: rest) ∨
    (t.status.valid = true ∧
      ((t.time = s.time ∧ t.date = s.date) ∨
        (∃ rest, s.pending = .write 32 (32 * s.baseIndex + 8) 0x00000001#32 :: rest ∧ firstFailure s.tel = none ∧
          regRead t .time = timeOf s.tel ∧ regRead t .date = dateOf s.tel)))

/-- 10_state R32: AUX is written only by BCD2 and PARITY words that succeed, and by reset; a host write to it is ignored. -/
def Obligations.OnlyBcd2AndParityWriteAux : Prop :=
  (∀ (s : State) (v : Word), regWrite .aux v s = .next s) ∧
  ∀ s t : State, step s = .next t → t.aux ≠ s.aux →
    ∃ rest, s.pending = .assertReset :: rest ∨
      ∃ (v : Word) (i : Instr), s.pending = .write 32 (32 * s.baseIndex + 8) v :: rest ∧ decode v = .ok i ∧
        t.status.ok = true ∧ ((∃ bh bl, i = .bcd2 bh bl) ∨ ∃ a b, i = .parity a b)

/-- 60_exceptions R248: a failure is not sticky: what any command word but NOP leaves in OK, KIND and CAUSE does not depend on
what stood in STATUS before. -/
def Obligations.OutcomesAreNotSticky : Prop :=
  ∀ (v : Word) (s : State) (st : Status), v ≠ 0x00000000#32 → ∃ t u, execute v s = .next t ∧
    execute v { s with status := st } = .next u ∧ t.status.ok = u.status.ok ∧ t.status.kind = u.status.kind ∧
    t.status.cause = u.status.cause

/-- 70_reset_and_hazards R282: a DECODE after only one of the two telegram writes decodes the new half together with the old
other half. -/
def Obligations.SplitTelegramIsDecodedAsMixed : Prop :=
  ∀ (s : State) (v : Word), s.resetAsserted = false →
    (∃ t, performAll [.write 32 (32 * s.baseIndex) v, .write 32 (32 * s.baseIndex + 8) 0x00000001#32] s = .next t ∧
      exec .decode { s with tel := s.tel.extractLsb' 32 27 ++ v } = .next t) ∧
    (∃ t, performAll [.write 32 (32 * s.baseIndex + 4) v, .write 32 (32 * s.baseIndex + 8) 0x00000001#32] s = .next t ∧
      exec .decode { s with tel := v.extractLsb' 0 27 ++ s.tel.extractLsb' 0 32 } = .next t)

/-! ### The host's side -/

/-- 40_input_adapters R107: forms that denote the same pattern normalize to the same bits, which are that pattern; a
58-character string is the 59-character string with '0' before it; 57 and 60 characters are InvalidLength. For any type of
characters in which the two named ones differ (log entry 9). -/
def Obligations.AdaptersAgree : Prop :=
  ∀ (γ : Type) [DecidableEq γ] (zero one : γ), zero ≠ one →
    (∀ (b : List Bool) (k : List Int) (s : List γ), b.length = 59 → k.length = 59 → s.length = 59 →
      (∀ i < 59, (b[i]? = some true ↔ k[i]? = some 1) ∧ (b[i]? = some true ↔ s[i]? = some one)) →
      ∃ bits, normBool b = .ok bits ∧ normInt k = .ok bits ∧ normStr zero one s = .ok bits ∧
        (∀ i < 59, bits.getLsbD i = true ↔ b[i]? = some true) ∧
        ∀ st : State, hostDecode zero one (.bools b) st = hostDecode zero one (.ints k) st ∧
          hostDecode zero one (.bools b) st = hostDecode zero one (.str s) st) ∧
    (∀ s : List γ, s.length = 58 → normStr zero one s = normStr zero one (zero :: s)) ∧
    (∀ s : List γ, s.length = 57 ∨ s.length = 60 → normStr zero one s = .error .invalidLength)

/-- 40_input_adapters R105 and R104: the host's `decode` of an input that normalizes returns the result or the error kind of
the telegram, leaving that telegram in TEL; an input that does not is InvalidLength with the block untouched. -/
def Obligations.HostDecodeReturnsTheTelegramsResult : Prop :=
  ∀ (γ : Type) [DecidableEq γ] (zero one : γ) (x : ExternalForm γ) (s : State),
    (∀ bits, normInput zero one x = .ok bits → s.resetAsserted = false →
      ∃ t r, hostDecode zero one x s = .next (t, r) ∧ t.tel = bits ∧
        match firstFailure bits with
        | none => r = .ok ⟨timeOf bits, dateOf bits⟩ ∧ regRead t .time = timeOf bits ∧ regRead t .date = dateOf bits
        | some c =>
          r = .error (if c.kind = .framing then .framingError else if c.kind = .parity then .parityError else .rangeError) ∧
            t.time = s.time ∧ t.date = s.date) ∧
    (∀ e, normInput zero one x = .error e → e = .invalidLength ∧ hostDecode zero one x s = .next (s, .error .invalidLength))

/-- 40_input_adapters R106: `lastResult` returns the most recent successful result also after a later decode that fails, and
zero while VALID = 0 (in states that meet the invariant). -/
def Obligations.LastResultSurvivesFailedDecodes : Prop :=
  (∀ s : State, StateInv s → s.resetAsserted = false → s.status.valid = false →
    ∃ w, lastResult s = .next (w, ⟨0x00000000#32, 0x00000000#32⟩)) ∧
  ∀ (γ : Type) [DecidableEq γ] (zero one : γ) (x y : ExternalForm γ) (s t u : State) (r : DecodeResult) (e : ErrorKind),
    hostDecode zero one x s = .next (t, .ok r) → hostDecode zero one y t = .next (u, .error e) →
    u.status.valid = true ∧ ∃ w, lastResult u = .next (w, r)

/-- 30_encoding R79: `ldtel` is a write of TEL_LO and then one of TEL_HI, which load TEL with the 59 bits, bit i into t[i], and
change nothing else; `ldtels` is `ldtel` of the normalized string, and a string that does not normalize is refused. -/
def Obligations.LdtelLoadsTheTelegram : Prop :=
  ∀ (s : State) (bits : Telegram), s.resetAsserted = false →
    (∃ lo hi : Word, assemble (32 * s.baseIndex) (.ldtel bits) =
        .ok [.write 32 (32 * s.baseIndex) lo, .write 32 (32 * s.baseIndex + 4) hi] ∧
      (∀ i < 32, lo.getLsbD i = bits.getLsbD i) ∧ (∀ j < 32, hi.getLsbD j = bits.getLsbD (32 + j)) ∧
      performAll [.write 32 (32 * s.baseIndex) lo, .write 32 (32 * s.baseIndex + 4) hi] s = .next { s with tel := bits }) ∧
    (∀ cs : List Char, normStr '0' '1' cs = .ok bits →
      assemble (32 * s.baseIndex) (.ldtels cs) = assemble (32 * s.baseIndex) (.ldtel bits)) ∧
    (∀ cs : List Char, cs.length ≠ 58 → cs.length ≠ 59 →
      assemble (32 * s.baseIndex) (.ldtels cs) = .error .invalidLength)

/-- 30_encoding R78: `nop`, `decode`, `bcd2` and `parity` assemble to one CMD write of the command's word, and the operands
that cannot be encoded are refused. -/
def Obligations.AssemblerEmitsTheCommandWord : Prop :=
  ∀ base : Nat,
    assemble base .nop = .ok [.write 32 (base + 8) (encode .nop)] ∧
    assemble base .decode = .ok [.write 32 (base + 8) (encode .decode)] ∧
    (∀ imm8, imm8 ≤ 0xFF → assemble base (.bcd2 imm8) =
      .ok [.write 32 (base + 8) (encode (.bcd2 (BitVec.ofNat 4 (imm8 / 16)) (BitVec.ofNat 4 (imm8 % 16))))]) ∧
    (∀ imm8, 0xFF < imm8 → assemble base (.bcd2 imm8) = .error .bcd2Range) ∧
    (∀ s e, s ≤ 63 → e ≤ 63 → assemble base (.parity s e) = .ok [.write 32 (base + 8) (encode (.parity s e))]) ∧
    (∀ s e, 63 < s ∨ 63 < e → assemble base (.parity s e) = .error .parityRange)

/-- 60_exceptions R252: instances share no state: a step of one instance is that instance's own step, and every other instance
is unchanged. -/
def Obligations.InstancesAreIndependent : Prop :=
  ∀ (p q : Platform) (i : Nat), p.stepBlock i = .next q →
    q.blocks.length = p.blocks.length ∧ (∀ j, j ≠ i → q.blocks[j]? = p.blocks[j]?) ∧
    ∀ s, p.blocks[i]? = some s → ∃ t, step s = .next t ∧ q.blocks[i]? = some t

/-- 20_memory R65: two hosts' accesses interleave at access granularity, each host's own in its own order. Every such
interleaving is one of `busOrder`, and `busOrder` gives no other order. -/
def Obligations.EveryInterleavingOfTwoHostsIsAdmitted : Prop :=
  (∀ merged : List (Bool × BusEvent), ∃ choices,
    busOrder choices ((merged.filter fun p => p.1).map fun p => p.2) ((merged.filter fun p => !p.1).map fun p => p.2) =
      merged.map fun p => p.2) ∧
  ∀ (choices : List Bool) (first second : List BusEvent), ∃ merged : List (Bool × BusEvent),
    (merged.filter fun p => p.1).map (fun p => p.2) = first ∧ (merged.filter fun p => !p.1).map (fun p => p.2) = second ∧
      busOrder choices first second = merged.map fun p => p.2
end

