-- ==== Sys2Proof/Laws/Operands.lean ====
section
/-! SUPPORT. What the operand functions compute: bounds of nibbles, groups and fields, the parity function. -/

namespace Sys2Proof.Machine

theorem boolNat_le_one (b : Bool) : b.toNat ≤ 1 := by cases b <;> decide

theorem nib_le (b0 b1 b2 b3 : Bool) : nib b0 b1 b2 b3 ≤ 15 := by
  cases b0 <;> cases b1 <;> cases b2 <;> cases b3 <;> decide

theorem groupBit_above (t : Telegram) {lo hi k : Nat} (h : hi < lo + k) : groupBit t lo hi k = false := by
  simp [groupBit, Nat.not_le.2 h]

theorem groupBit_inside (t : Telegram) {lo hi k : Nat} (h : lo + k ≤ hi) : groupBit t lo hi k = bitAt t (lo + k) := by
  simp [groupBit, h]

theorem groupValue_le (t : Telegram) (lo hi : Nat) : groupValue t lo hi ≤ 15 := nib_le ..

theorem groupValue_le_seven (t : Telegram) {lo hi : Nat} (h : hi < lo + 3) : groupValue t lo hi ≤ 7 := by
  have hb := boolNat_le_one
  have h1 := hb (groupBit t lo hi 2)
  have h2 := hb (groupBit t lo hi 1)
  have h3 := hb (groupBit t lo hi 0)
  simp only [groupValue, nib, groupBit_above t h, Bool.toNat_false]
  omega

theorem groupValue_le_three (t : Telegram) {lo hi : Nat} (h : hi < lo + 2) : groupValue t lo hi ≤ 3 := by
  have hb := boolNat_le_one
  have h2 := hb (groupBit t lo hi 1)
  have h3 := hb (groupBit t lo hi 0)
  simp only [groupValue, nib, groupBit_above t (show hi < lo + 3 by omega), groupBit_above t h, Bool.toNat_false]
  omega

theorem groupValue_le_one (t : Telegram) {lo hi : Nat} (h : hi < lo + 1) : groupValue t lo hi ≤ 1 := by
  have h3 := boolNat_le_one (groupBit t lo hi 0)
  simp only [groupValue, nib, groupBit_above t (show hi < lo + 3 by omega),
    groupBit_above t (show hi < lo + 2 by omega), groupBit_above t h, Bool.toNat_false]
  omega

/-- The value of a nibble of a command word is its unsigned value. -/
theorem nibbleValue_eq (b : Nibble) : nibbleValue b = b.toNat := by
  revert b; decide

theorem twoDigits_nibbles_le (bh bl : Nibble) : twoDigits (nibbleValue bl) (nibbleValue bh) ≤ 165 := by
  have h1 := nib_le (bh.getLsbD 3) (bh.getLsbD 2) (bh.getLsbD 1) (bh.getLsbD 0)
  have h2 := nib_le (bl.getLsbD 3) (bl.getLsbD 2) (bl.getLsbD 1) (bl.getLsbD 0)
  simp only [twoDigits, nibbleValue]; omega

theorem summerOf_range (t : Telegram) : -1 ≤ summerOf t ∧ summerOf t ≤ 2 := by
  have h1 := boolNat_le_one (bitAt t 17)
  have h2 := boolNat_le_one (bitAt t 18)
  simp only [summerOf, nib, Bool.toNat_false]
  omega

theorem extract_weekday_le (t : Telegram) : (extract t).weekday ≤ 7 := groupValue_le_seven t (by decide)

theorem extract_year_le (t : Telegram) : (extract t).year ≤ 165 := by
  have h1 := groupValue_le t 50 53
  have h2 := groupValue_le t 54 57
  simp only [extract, twoDigits]; omega

theorem parityOf_le_one (t : Telegram) (s e : Nat) : parityOf t s e ≤ 1 := by
  unfold parityOf; split <;> omega

theorem parityOf_empty (t : Telegram) {s e : Nat} (h : e < s) : parityOf t s e = 0 := by
  simp [parityOf, h]

theorem parityOf_range (t : Telegram) {s e : Nat} (h : s ≤ e) : parityOf t s e = onesFrom t s (e + 1 - s) % 2 := by
  simp [parityOf, Nat.not_lt.2 h]

/-- The count as a count over the list of indices. -/
theorem onesFrom_eq_countP (t : Telegram) (lo n : Nat) :
    onesFrom t lo n = (List.range' lo n).countP fun i => t.getLsbD i := by
  induction n with
  | zero => rfl
  | succ n ih =>
    rw [onesFrom, ih, List.range'_concat, List.countP_append]
    cases h : t.getLsbD (lo + n) <;> simp [bitAt, h]

/-- The count reads the bits of its range and no others. -/
theorem onesFrom_congr {t u : Telegram} {lo : Nat} : ∀ {n : Nat}, (∀ k < n, bitAt t (lo + k) = bitAt u (lo + k)) →
    onesFrom t lo n = onesFrom u lo n
  | 0, _ => rfl
  | n + 1, h => by
    rw [onesFrom, onesFrom, onesFrom_congr (n := n) fun k hk => h k (by omega), h n (by omega)]

end Sys2Proof.Machine
end

