-- ==== Sys2Proof/Laws/State.lean ====
section
/-! SUPPORT. One lemma per field per state update, true by rfl, so that no proof unfolds a record update. -/

namespace Sys2Proof.Machine

@[simp] theorem writeTelLo_tel (v : Word) (s : State) : (writeTelLo v s).tel = s.tel.extractLsb' 32 27 ++ v := rfl
@[simp] theorem writeTelLo_status (v : Word) (s : State) : (writeTelLo v s).status = s.status := rfl
@[simp] theorem writeTelLo_time (v : Word) (s : State) : (writeTelLo v s).time = s.time := rfl
@[simp] theorem writeTelLo_date (v : Word) (s : State) : (writeTelLo v s).date = s.date := rfl
@[simp] theorem writeTelLo_aux (v : Word) (s : State) : (writeTelLo v s).aux = s.aux := rfl
@[simp] theorem writeTelLo_resetAsserted (v : Word) (s : State) : (writeTelLo v s).resetAsserted = s.resetAsserted := rfl
@[simp] theorem writeTelLo_baseIndex (v : Word) (s : State) : (writeTelLo v s).baseIndex = s.baseIndex := rfl
@[simp] theorem writeTelLo_pending (v : Word) (s : State) : (writeTelLo v s).pending = s.pending := rfl
@[simp] theorem writeTelLo_readLog (v : Word) (s : State) : (writeTelLo v s).readLog = s.readLog := rfl

@[simp] theorem writeTelHi_tel (v : Word) (s : State) : (writeTelHi v s).tel = v.extractLsb' 0 27 ++ s.tel.extractLsb' 0 32 := rfl
@[simp] theorem writeTelHi_status (v : Word) (s : State) : (writeTelHi v s).status = s.status := rfl
@[simp] theorem writeTelHi_time (v : Word) (s : State) : (writeTelHi v s).time = s.time := rfl
@[simp] theorem writeTelHi_date (v : Word) (s : State) : (writeTelHi v s).date = s.date := rfl
@[simp] theorem writeTelHi_aux (v : Word) (s : State) : (writeTelHi v s).aux = s.aux := rfl
@[simp] theorem writeTelHi_resetAsserted (v : Word) (s : State) : (writeTelHi v s).resetAsserted = s.resetAsserted := rfl
@[simp] theorem writeTelHi_baseIndex (v : Word) (s : State) : (writeTelHi v s).baseIndex = s.baseIndex := rfl
@[simp] theorem writeTelHi_pending (v : Word) (s : State) : (writeTelHi v s).pending = s.pending := rfl
@[simp] theorem writeTelHi_readLog (v : Word) (s : State) : (writeTelHi v s).readLog = s.readLog := rfl

@[simp] theorem fail_tel (k : Kind) (c : Cause) (s : State) : (fail k c s).tel = s.tel := rfl
@[simp] theorem fail_status (k : Kind) (c : Cause) (s : State) : (fail k c s).status = ⟨false, k, s.status.valid, c⟩ := rfl
@[simp] theorem fail_time (k : Kind) (c : Cause) (s : State) : (fail k c s).time = s.time := rfl
@[simp] theorem fail_date (k : Kind) (c : Cause) (s : State) : (fail k c s).date = s.date := rfl
@[simp] theorem fail_aux (k : Kind) (c : Cause) (s : State) : (fail k c s).aux = s.aux := rfl
@[simp] theorem fail_resetAsserted (k : Kind) (c : Cause) (s : State) : (fail k c s).resetAsserted = s.resetAsserted := rfl
@[simp] theorem fail_baseIndex (k : Kind) (c : Cause) (s : State) : (fail k c s).baseIndex = s.baseIndex := rfl
@[simp] theorem fail_pending (k : Kind) (c : Cause) (s : State) : (fail k c s).pending = s.pending := rfl
@[simp] theorem fail_readLog (k : Kind) (c : Cause) (s : State) : (fail k c s).readLog = s.readLog := rfl

@[simp] theorem succeed_tel (s : State) : (succeed s).tel = s.tel := rfl
@[simp] theorem succeed_status (s : State) : (succeed s).status = ⟨true, .none, s.status.valid, .none⟩ := rfl
@[simp] theorem succeed_time (s : State) : (succeed s).time = s.time := rfl
@[simp] theorem succeed_date (s : State) : (succeed s).date = s.date := rfl
@[simp] theorem succeed_aux (s : State) : (succeed s).aux = s.aux := rfl
@[simp] theorem succeed_resetAsserted (s : State) : (succeed s).resetAsserted = s.resetAsserted := rfl
@[simp] theorem succeed_baseIndex (s : State) : (succeed s).baseIndex = s.baseIndex := rfl
@[simp] theorem succeed_pending (s : State) : (succeed s).pending = s.pending := rfl
@[simp] theorem succeed_readLog (s : State) : (succeed s).readLog = s.readLog := rfl

@[simp] theorem writeAux_tel (x : Nat) (s : State) : (writeAux x s).tel = s.tel := rfl
@[simp] theorem writeAux_status (x : Nat) (s : State) : (writeAux x s).status = s.status := rfl
@[simp] theorem writeAux_time (x : Nat) (s : State) : (writeAux x s).time = s.time := rfl
@[simp] theorem writeAux_date (x : Nat) (s : State) : (writeAux x s).date = s.date := rfl
@[simp] theorem writeAux_aux (x : Nat) (s : State) : (writeAux x s).aux = BitVec.ofNat 8 x := rfl
@[simp] theorem writeAux_resetAsserted (x : Nat) (s : State) : (writeAux x s).resetAsserted = s.resetAsserted := rfl
@[simp] theorem writeAux_baseIndex (x : Nat) (s : State) : (writeAux x s).baseIndex = s.baseIndex := rfl
@[simp] theorem writeAux_pending (x : Nat) (s : State) : (writeAux x s).pending = s.pending := rfl
@[simp] theorem writeAux_readLog (x : Nat) (s : State) : (writeAux x s).readLog = s.readLog := rfl

@[simp] theorem commit_tel (f : Fields) (s : State) : (commit f s).tel = s.tel := rfl
@[simp] theorem commit_status (f : Fields) (s : State) : (commit f s).status = ⟨s.status.ok, s.status.kind, true, s.status.cause⟩ := rfl
@[simp] theorem commit_time (f : Fields) (s : State) : (commit f s).time = f.time := rfl
@[simp] theorem commit_date (f : Fields) (s : State) : (commit f s).date = f.date := rfl
@[simp] theorem commit_aux (f : Fields) (s : State) : (commit f s).aux = s.aux := rfl
@[simp] theorem commit_resetAsserted (f : Fields) (s : State) : (commit f s).resetAsserted = s.resetAsserted := rfl
@[simp] theorem commit_baseIndex (f : Fields) (s : State) : (commit f s).baseIndex = s.baseIndex := rfl
@[simp] theorem commit_pending (f : Fields) (s : State) : (commit f s).pending = s.pending := rfl
@[simp] theorem commit_readLog (f : Fields) (s : State) : (commit f s).readLog = s.readLog := rfl

@[simp] theorem recordRead_tel (v : Word) (s : State) : (recordRead v s).tel = s.tel := rfl
@[simp] theorem recordRead_status (v : Word) (s : State) : (recordRead v s).status = s.status := rfl
@[simp] theorem recordRead_time (v : Word) (s : State) : (recordRead v s).time = s.time := rfl
@[simp] theorem recordRead_date (v : Word) (s : State) : (recordRead v s).date = s.date := rfl
@[simp] theorem recordRead_aux (v : Word) (s : State) : (recordRead v s).aux = s.aux := rfl
@[simp] theorem recordRead_resetAsserted (v : Word) (s : State) : (recordRead v s).resetAsserted = s.resetAsserted := rfl
@[simp] theorem recordRead_baseIndex (v : Word) (s : State) : (recordRead v s).baseIndex = s.baseIndex := rfl
@[simp] theorem recordRead_pending (v : Word) (s : State) : (recordRead v s).pending = s.pending := rfl
@[simp] theorem recordRead_readLog (v : Word) (s : State) : (recordRead v s).readLog = s.readLog ++ [v] := rfl

@[simp] theorem applyReset_tel (s : State) : (applyReset s).tel = 0#59 := rfl
@[simp] theorem applyReset_status (s : State) : (applyReset s).status = Status.reset := rfl
@[simp] theorem applyReset_time (s : State) : (applyReset s).time = TimeReg.reset := rfl
@[simp] theorem applyReset_date (s : State) : (applyReset s).date = DateReg.reset := rfl
@[simp] theorem applyReset_aux (s : State) : (applyReset s).aux = 0#8 := rfl
@[simp] theorem applyReset_resetAsserted (s : State) : (applyReset s).resetAsserted = true := rfl
@[simp] theorem applyReset_baseIndex (s : State) : (applyReset s).baseIndex = s.baseIndex := rfl
@[simp] theorem applyReset_pending (s : State) : (applyReset s).pending = s.pending := rfl
@[simp] theorem applyReset_readLog (s : State) : (applyReset s).readLog = s.readLog := rfl

@[simp] theorem queueCommand_tel (v : Word) (s : State) : (queueCommand v s).tel = s.tel := rfl
@[simp] theorem queueCommand_status (v : Word) (s : State) : (queueCommand v s).status = s.status := rfl
@[simp] theorem queueCommand_time (v : Word) (s : State) : (queueCommand v s).time = s.time := rfl
@[simp] theorem queueCommand_date (v : Word) (s : State) : (queueCommand v s).date = s.date := rfl
@[simp] theorem queueCommand_aux (v : Word) (s : State) : (queueCommand v s).aux = s.aux := rfl
@[simp] theorem queueCommand_resetAsserted (v : Word) (s : State) : (queueCommand v s).resetAsserted = false := rfl
@[simp] theorem queueCommand_baseIndex (v : Word) (s : State) : (queueCommand v s).baseIndex = s.baseIndex := rfl
@[simp] theorem queueCommand_pending (v : Word) (s : State) : (queueCommand v s).pending = s.cmdWrite v :: s.pending := rfl
@[simp] theorem queueCommand_readLog (v : Word) (s : State) : (queueCommand v s).readLog = s.readLog := rfl

@[simp] theorem resetAt_tel (b : Nat) : (State.resetAt b).tel = 0#59 := rfl
@[simp] theorem resetAt_status (b : Nat) : (State.resetAt b).status = Status.reset := rfl
@[simp] theorem resetAt_time (b : Nat) : (State.resetAt b).time = TimeReg.reset := rfl
@[simp] theorem resetAt_date (b : Nat) : (State.resetAt b).date = DateReg.reset := rfl
@[simp] theorem resetAt_aux (b : Nat) : (State.resetAt b).aux = 0#8 := rfl
@[simp] theorem resetAt_resetAsserted (b : Nat) : (State.resetAt b).resetAsserted = false := rfl
@[simp] theorem resetAt_baseIndex (b : Nat) : (State.resetAt b).baseIndex = b := rfl
@[simp] theorem resetAt_pending (b : Nat) : (State.resetAt b).pending = [] := rfl
@[simp] theorem resetAt_readLog (b : Nat) : (State.resetAt b).readLog = [] := rfl

@[simp] theorem statusReset_ok : Status.reset.ok = false := rfl
@[simp] theorem statusReset_kind : Status.reset.kind = .none := rfl
@[simp] theorem statusReset_valid : Status.reset.valid = false := rfl
@[simp] theorem statusReset_cause : Status.reset.cause = .none := rfl

/-- CORE_BASE and the register addresses depend on the window's place alone. -/
theorem addrOf_eq (s : State) (r : RegName) : s.addrOf r = 32 * s.baseIndex + 4 * r.offset := rfl

end Sys2Proof.Machine
end

