-- ==== Sys2Proof/Laws/Commands.lean ====
section
/-! SUPPORT. What each command and the shared operations under it can do, said once: the range validator, the DECODE outcome,
and the inversion lemmas of `exec` and `execute`. -/

namespace Sys2Proof.Machine

/-- The validator accepts within the five bounds. -/
theorem rangeCheck_none {a b c d e : Nat} (h : rangeCheck a b c d e = none) :
    a ≤ 60 ∧ b ≤ 24 ∧ c ≤ 31 ∧ d ≤ 7 ∧ e ≤ 12 := by
  unfold rangeCheck at h
  repeat' split at h
  all_goals simp_all

/-- The validator names a cause of kind RANGE. -/
theorem rangeCheck_some {a b c d e : Nat} {x : Cause} (h : rangeCheck a b c d e = some x) :
    (x = .rngMin ∧ 60 < a) ∨ (x = .rngHour ∧ 24 < b) ∨ (x = .rngDay ∧ 31 < c) ∨ (x = .rngWday ∧ 7 < d) ∨
      (x = .rngMon ∧ 12 < e) := by
  unfold rangeCheck at h
  repeat' split at h
  all_goals simp_all

/-- All that a successful DECODE outcome says. -/
theorem decodeFn_ok {t : Telegram} {f : Fields} (h : decodeFn t = .ok f) :
    bitAt t 0 = false ∧ bitAt t 20 = true ∧ parityPasses t 21 27 28 = true ∧ parityPasses t 29 34 35 = true ∧
      parityPasses t 36 57 58 = true ∧
      rangeCheck (extract t).minute (extract t).hour (extract t).day (extract t).weekday (extract t).month = none ∧
      f = extract t := by
  unfold decodeFn at h
  repeat' split at h
  all_goals simp_all

/-- All that a failed DECODE outcome can report. -/
theorem decodeFn_error {t : Telegram} {c : Cause} (h : decodeFn t = .error c) :
    c = .frameB0 ∨ c = .frameB20 ∨ c = .parMin ∨ c = .parHour ∨ c = .parDate ∨
      rangeCheck (extract t).minute (extract t).hour (extract t).day (extract t).weekday (extract t).month = some c := by
  unfold decodeFn at h
  repeat' split at h
  all_goals simp_all

/-- A command's next state is one of these: unchanged, a failure with its cause, a success that commits, a success that
writes AUX. -/
theorem exec_cases {i : Instr} {s t : State} (h : exec i s = .next t) :
    (i = .nop ∧ t = s) ∨
    (∃ c, i = .decode ∧ decodeFn s.tel = .error c ∧ t = fail c.kind c s) ∨
    (∃ f, i = .decode ∧ decodeFn s.tel = .ok f ∧ t = succeed (commit f s)) ∨
    (∃ bh bl, i = .bcd2 bh bl ∧ t = succeed (writeAux (twoDigits (nibbleValue bl) (nibbleValue bh)) s)) ∨
    (∃ a b, i = .parity a b ∧ b < a ∧ t = succeed (writeAux 0 s)) ∨
    (∃ a b, i = .parity a b ∧ a ≤ b ∧ 58 < b ∧ t = fail .illegal .illRange s) ∨
    (∃ a b, i = .parity a b ∧ a ≤ b ∧ b ≤ 58 ∧ t = succeed (writeAux (parityOf s.tel a b) s)) := by
  cases i with
  | nop => cases h; exact .inl ⟨rfl, rfl⟩
  | decode =>
    simp only [exec, execDecode] at h
    split at h
    · rename_i c hc; cases h; exact .inr (.inl ⟨c, rfl, hc, rfl⟩)
    · rename_i f hf; cases h; exact .inr (.inr (.inl ⟨f, rfl, hf, rfl⟩))
  | bcd2 bh bl => cases h; exact .inr (.inr (.inr (.inl ⟨bh, bl, rfl, rfl⟩)))
  | parity a b =>
    simp only [exec, execParity] at h
    split at h
    · cases h; exact .inr (.inr (.inr (.inr (.inl ⟨a, b, rfl, ‹_›, rfl⟩))))
    · split at h <;> cases h
      · exact .inr (.inr (.inr (.inr (.inr (.inl ⟨a, b, rfl, by omega, ‹_›, rfl⟩)))))
      · exact .inr (.inr (.inr (.inr (.inr (.inr ⟨a, b, rfl, by omega, by omega, rfl⟩)))))

/-- A written command word runs the instruction it decodes to, or fails as an illegal word. -/
theorem execute_cases {v : Word} {s t : State} (h : execute v s = .next t) :
    (∃ i, decode v = .ok i ∧ exec i s = .next t) ∨ (∃ r, decode v = .error r ∧ t = fail .illegal .illCmd s) := by
  unfold execute at h
  split at h
  · rename_i i hi; exact .inl ⟨i, hi, h⟩
  · rename_i r hr; cases h; exact .inr ⟨r, hr, rfl⟩

end Sys2Proof.Machine
end

