-- ==== Sys2Proof/Laws/Bus.lean ====
section
/-! SUPPORT. What an access and a step can do, said once: which accesses reach a register, and the inversion lemmas of
`regWrite`, `perform` and `step`. -/

namespace Sys2Proof.Machine

theorem ofOffset_offset (r : RegName) : RegName.ofOffset r.offset = some r := by cases r <;> rfl

theorem ofOffset_some {k : Nat} {r : RegName} (h : RegName.ofOffset k = some r) : k = r.offset := by
  unfold RegName.ofOffset at h
  split at h <;> cases h <;> rfl

theorem offset_le_seven (r : RegName) : r.offset ≤ 7 := by cases r <;> decide

theorem regAt_addrOf (s : State) (r : RegName) : s.regAt (s.addrOf r) = some r := by
  have h : s.coreBase ≤ s.addrOf r := Nat.le_add_right ..
  have h2 : (s.addrOf r - s.coreBase) / 4 = r.offset := by unfold State.addrOf; omega
  rw [State.regAt, if_pos h, h2, ofOffset_offset]

/-- An access reaches register `r` exactly when it is a whole aligned word at the register's address, reset released. -/
theorem classify_ok {s : State} {w a : Nat} {r : RegName} :
    classify s w a = .ok r ↔ s.resetAsserted = false ∧ w = 32 ∧ a = s.addrOf r := by
  constructor
  · intro h
    unfold classify at h
    split at h; · cases h
    split at h; · cases h
    split at h; · cases h
    rename_i hr hw ha
    split at h
    · cases h
    · rename_i q hq
      cases h
      refine ⟨by simpa using hr, by simpa using hw, ?_⟩
      unfold State.regAt at hq
      split at hq
      · have hk := ofOffset_some hq
        have hb : s.coreBase % 4 = 0 := by unfold State.coreBase; simp only [Config.windowBytes]; omega
        unfold State.addrOf; omega
      · cases hq
  · rintro ⟨hr, rfl, rfl⟩
    have hm : s.addrOf r % 4 = 0 := by unfold State.addrOf State.coreBase; simp only [Config.windowBytes]; omega
    simp [classify, hr, hm, regAt_addrOf]

/-- A write's next state: a telegram half, a command, or no change. -/
theorem regWrite_cases {r : RegName} {v : Word} {s t : State} (h : regWrite r v s = .next t) :
    (r = .telLo ∧ t = writeTelLo v s) ∨ (r = .telHi ∧ t = writeTelHi v s) ∨ (r = .cmd ∧ execute v s = .next t) ∨
      (r ≠ .telLo ∧ r ≠ .telHi ∧ r ≠ .cmd ∧ t = s) := by
  cases r <;> simp_all [regWrite, eq_comm]

/-- An event's next state: a recorded read, a register write, or a change of the reset input. -/
theorem perform_cases {ev : BusEvent} {s t : State} (h : perform ev s = .next t) :
    (∃ r, ev = .read 32 (s.addrOf r) ∧ s.resetAsserted = false ∧ t = recordRead (regRead s r) s) ∨
    (∃ r v, ev = .write 32 (s.addrOf r) v ∧ s.resetAsserted = false ∧ regWrite r v s = .next t) ∨
    (ev = .assertReset ∧ t = applyReset s) ∨
    (ev = .releaseReset ∧ t = { s with resetAsserted := false }) := by
  cases ev with
  | read w a =>
    simp only [perform] at h
    split at h
    · cases h
    · rename_i r hc
      obtain ⟨hr, rfl, rfl⟩ := classify_ok.1 hc
      cases h
      exact .inl ⟨r, rfl, hr, rfl⟩
  | write w a v =>
    simp only [perform] at h
    split at h
    · cases h
    · rename_i r hc
      obtain ⟨hr, rfl, rfl⟩ := classify_ok.1 hc
      exact .inr (.inl ⟨r, v, rfl, hr, by simpa using h⟩)
  | assertReset => cases h; exact .inr (.inr (.inl ⟨rfl, rfl⟩))
  | releaseReset => cases h; exact .inr (.inr (.inr ⟨rfl, rfl⟩))

/-- A step with nothing to deliver leaves the state; otherwise it performs the first event. -/
theorem step_cases {s t : State} (h : step s = .next t) :
    (s.pending = [] ∧ t = s) ∨
      (∃ ev rest, s.pending = ev :: rest ∧ perform ev { s with pending := rest } = .next t) := by
  unfold step deliverNext at h
  split at h
  · rename_i hp; cases h; exact .inl ⟨hp, rfl⟩
  · rename_i ev rest hp; exact .inr ⟨ev, rest, hp, h⟩

/-- A read of a register by the host. -/
theorem perform_read {s : State} (hr : s.resetAsserted = false) (r : RegName) :
    perform (.read 32 (s.addrOf r)) s = .next (recordRead (regRead s r) s) := by
  simp [perform, classify_ok.2 ⟨hr, rfl, rfl⟩]

/-- A write of a register by the host. -/
theorem perform_write {s : State} (hr : s.resetAsserted = false) (r : RegName) (v : Word) :
    perform (.write 32 (s.addrOf r) v) s = regWrite r v s := by
  simp [perform, classify_ok.2 ⟨hr, rfl, rfl⟩]

end Sys2Proof.Machine
end

