-- ==== Sys2Proof/Laws/Decode.lean ====
section
/-! SUPPORT. The command words bit by bit, and the rows' masks as the shape of a word. -/

namespace Sys2Proof

theorem word_ext_iff (v w : Word) : v = w ↔ ∀ i < 32, v.getLsbD i = w.getLsbD i :=
  ⟨fun h i _ => by rw [h], fun h => BitVec.eq_of_getLsbD_eq h⟩

/-- The number of two appended bit vectors. -/
theorem toNat_append_add {m n : Nat} (x : BitVec m) (y : BitVec n) : (x ++ y).toNat = x.toNat * 2 ^ n + y.toNat := by
  rw [BitVec.toNat_append, ← Nat.shiftLeft_add_eq_or_of_lt y.isLt, Nat.shiftLeft_eq]

/-- The bits of a BCD2 word. -/
theorem getLsbD_encode_bcd2 (bh bl : Nibble) (i : Nat) : (encode (.bcd2 bh bl)).getLsbD i =
    if i < 4 then (2#4).getLsbD i else if i < 8 then false else if i < 12 then bl.getLsbD (i - 8)
    else bh.getLsbD (i - 12) := by
  unfold encode
  rw [BitVec.getLsbD_append, BitVec.getLsbD_append, BitVec.getLsbD_append, BitVec.getLsbD_append]
  simp only [BitVec.getLsbD_zero]
  repeat' split
  all_goals first | rfl | omega | exact (BitVec.getLsbD_of_ge _ _ (by omega)).symm

/-- The bits of a PARITY word. -/
theorem getLsbD_encode_parity (s e i : Nat) : (encode (.parity s e)).getLsbD i =
    if i < 4 then (3#4).getLsbD i else if i < 8 then false else if i < 14 then (BitVec.ofNat 6 s).getLsbD (i - 8)
    else if i < 16 then false else (BitVec.ofNat 6 e).getLsbD (i - 16) := by
  unfold encode
  rw [BitVec.getLsbD_append, BitVec.getLsbD_append, BitVec.getLsbD_append, BitVec.getLsbD_append, BitVec.getLsbD_append]
  simp only [BitVec.getLsbD_zero]
  repeat' split
  all_goals first | rfl | omega | exact (BitVec.getLsbD_of_ge _ _ (by omega)).symm

theorem hits_nop (v : Word) : rowNop.hits v = true ↔ v = 0x00000000#32 := by
  simp only [OpcodeRow.hits, rowNop, beq_iff_eq]
  rw [word_ext_iff, word_ext_iff]
  refine forall₂_congr fun i hi => ?_
  interval_cases i <;> simp

theorem hits_decode (v : Word) : rowDecode.hits v = true ↔ v = 0x00000001#32 := by
  simp only [OpcodeRow.hits, rowDecode, beq_iff_eq]
  rw [word_ext_iff, word_ext_iff]
  refine forall₂_congr fun i hi => ?_
  interval_cases i <;> simp

/-- A word hits the BCD2 row exactly when it is the BCD2 word of its two nibbles. -/
theorem hits_bcd2 (v : Word) : rowBcd2.hits v = true ↔ v = encode (.bcd2 (bhField v) (blField v)) := by
  simp only [OpcodeRow.hits, rowBcd2, beq_iff_eq]
  rw [word_ext_iff, word_ext_iff]
  refine forall₂_congr fun i hi => ?_
  rw [getLsbD_encode_bcd2]
  interval_cases i <;> simp [bhField, blField]

/-- A word hits the PARITY row exactly when it is the PARITY word of its two indices. -/
theorem hits_parity (v : Word) : rowParity.hits v = true ↔ v = encode (.parity (sField v) (eField v)) := by
  simp only [OpcodeRow.hits, rowParity, beq_iff_eq]
  rw [word_ext_iff, word_ext_iff]
  refine forall₂_congr fun i hi => ?_
  rw [getLsbD_encode_parity, sField, eField, BitVec.ofNat_toNat, BitVec.ofNat_toNat, BitVec.setWidth_eq, BitVec.setWidth_eq]
  interval_cases i <;> simp

/-- The operand fields of a BCD2 word. -/
theorem fields_encode_bcd2 (bh bl : Nibble) :
    bhField (encode (.bcd2 bh bl)) = bh ∧ blField (encode (.bcd2 bh bl)) = bl := by
  constructor <;> refine BitVec.eq_of_getLsbD_eq fun i hi => ?_
  · rw [bhField, BitVec.getLsbD_extractLsb', getLsbD_encode_bcd2]
    interval_cases i <;> simp
  · rw [blField, BitVec.getLsbD_extractLsb', getLsbD_encode_bcd2]
    interval_cases i <;> simp

/-- The operand fields of a PARITY word. -/
theorem fields_encode_parity {s e : Nat} (hs : s ≤ 63) (he : e ≤ 63) :
    sField (encode (.parity s e)) = s ∧ eField (encode (.parity s e)) = e := by
  have h1 : (encode (.parity s e)).extractLsb' 8 6 = BitVec.ofNat 6 s := by
    refine BitVec.eq_of_getLsbD_eq fun i hi => ?_
    rw [BitVec.getLsbD_extractLsb', getLsbD_encode_parity]
    interval_cases i <;> simp
  have h2 : (encode (.parity s e)).extractLsb' 16 6 = BitVec.ofNat 6 e := by
    refine BitVec.eq_of_getLsbD_eq fun i hi => ?_
    rw [BitVec.getLsbD_extractLsb', getLsbD_encode_parity]
    interval_cases i <;> simp
  rw [sField, eField, h1, h2, BitVec.toNat_ofNat, BitVec.toNat_ofNat]
  omega

/-- A decoded word hits the row of its instruction, with its fields as operands. -/
theorem decode_ok_cases {v : Word} {i : Instr} (h : decode v = .ok i) :
    (i = .nop ∧ rowNop.hits v = true) ∨ (i = .decode ∧ rowDecode.hits v = true) ∨
    (i = .bcd2 (bhField v) (blField v) ∧ rowBcd2.hits v = true) ∨
    (i = .parity (sField v) (eField v) ∧ rowParity.hits v = true) := by
  unfold decode at h
  repeat' split at h
  all_goals simp_all

/-- A rejected word hits no row. -/
theorem decode_error_cases {v : Word} {r : Reject} (h : decode v = .error r) :
    rowNop.hits v = false ∧ rowDecode.hits v = false ∧ rowBcd2.hits v = false ∧ rowParity.hits v = false := by
  unfold decode at h
  repeat' split at h
  all_goals simp_all

end Sys2Proof
end

