-- ==== Sys2Proof/Laws/PerInstr.lean ====
section
/-! SUPPORT. What holds of every instruction as syntax, one lemma per constructor. -/

namespace Sys2Proof.Laws.OpcodeField

/-- The opcode of each command (30_encoding R75). -/
def opcode : Instr → Nat
  | .nop => 0
  | .decode => 1
  | .bcd2 _ _ => 2
  | .parity _ _ => 3

/-- Bits 3:0 of the encoded word are the instruction's opcode (30_encoding R70). -/
def Statement (i : Instr) : Prop := opField (encode i) = opcode i

theorem nop : Statement .nop := by unfold Statement; decide

theorem decode : Statement .decode := by unfold Statement; decide

theorem bcd2 (bh bl : Nibble) : Statement (.bcd2 bh bl) := by
  unfold Statement opField encode opcode
  rw [BitVec.extractLsb'_append_eq_of_add_le (by decide)]
  rfl

theorem parity (s e : Nat) : Statement (.parity s e) := by
  unfold Statement opField encode opcode
  rw [BitVec.extractLsb'_append_eq_of_add_le (by decide)]
  rfl

end Sys2Proof.Laws.OpcodeField
end

