-- ==== Sys2Proof/Tests/Slice0.lean ====
section
/-! SUPPORT. The model's own tests: the ill-formed terms, the written-out words, at most two steps per command, the host's
side, and for each statement with hypotheses a concrete input that meets them. Expected values are the spec's vectors
(95_test_vectors) or computed by hand from the cited rules. -/

namespace Sys2Proof.Tests

open Sys2Proof Sys2Proof.Machine Sys2Proof.Claims

/-- The next state, if there is one. -/
def nextOf {α : Type} : Host.Outcome α Fault Refusal → Option α
  | .next s => some s
  | .fault _ => none
  | .refused _ => none

/-- The name of the refusal, if there is one. -/
def refusalOf {α : Type} : Host.Outcome α Fault Refusal → Option Refusal
  | .next _ => none
  | .fault _ => none
  | .refused r => some r

/-- Telegram DEC-01 (95_test_vectors 1.1). -/
def dec01 : Telegram := 0x0050309242344C78#59

/-- A state after reset with a telegram loaded, in the window at byte address 224. -/
def loaded (t : Telegram) : State := { State.resetAt 7 with tel := t }

/-- STATUS, TIME, DATE and AUX of a next state. -/
def view (o : Host.Outcome State Fault Refusal) : Option (Word × Word × Word × Word) :=
  (nextOf o).map fun s => (regRead s .status, regRead s .time, regRead s .date, regRead s .aux)

/-! ### Well-formedness -/

theorem test_parity_start_64_is_ill_formed : wellFormed (.parity 64 0) = false := by decide

theorem test_parity_end_64_is_ill_formed : wellFormed (.parity 0 64) = false := by decide

theorem test_parity_63_is_well_formed : wellFormed (.parity 63 63) = true := by decide

/-! ### Words written out from 30_encoding R75 -/

theorem test_word_nop : decode 0b0000_0000_0000_0000_0000_0000_0000_0000#32 = .ok .nop := by decide

theorem test_word_decode : decode 0b0000_0000_0000_0000_0000_0000_0000_0001#32 = .ok .decode := by decide

/-- `0000000000000000HHHHLLLL00000010` with HHHH = 1010, LLLL = 0011. -/
theorem test_word_bcd2 : decode 0b0000_0000_0000_0000_1010_0011_0000_0010#32 = .ok (.bcd2 10#4 3#4) := by decide

/-- `0000000000EEEEEE00SSSSSS00000011` with EEEEEE = 111001, SSSSSS = 100100. -/
theorem test_word_parity : decode 0b0000_0000_0011_1001_0010_0100_0000_0011#32 = .ok (.parity 36 57) := by decide

theorem test_table_word_parity : decodeTableWord 32 0x001B1503 = some (.parity 21 27) := by decide

theorem test_table_word_illegal : decodeTableWord 32 0x00400003 = none := by decide

/-! ### One step per command -/

/-- 95_test_vectors NOP-01, on a state with a failure recorded: NOP keeps STATUS. -/
theorem test_nop_keeps_status :
    view (exec .nop (fail .illegal .illCmd (loaded dec01))) = some (0x00000B08#32, 0#32, 0#32, 0#32) := by decide

/-- 95_test_vectors DEC-01. -/
theorem test_decode_example_telegram :
    view (exec .decode (loaded dec01)) = some (0x00000011#32, 0x00000C0B#32, 0x0E010409#32, 0#32) := by decide

/-- 95_test_vectors DEC-24: minute 61 with a wrong parity bit reports the parity. -/
theorem test_decode_parity_before_range :
    view (exec .decode (loaded 0x005030924C340000#59)) = some (0x00000304#32, 0#32, 0#32, 0#32) := by decide

/-- 95_test_vectors BCD-09: the nibbles are not swapped. -/
theorem test_bcd2_1f : view (exec (.bcd2 1#4 15#4) (loaded dec01)) = some (0x00000001#32, 0#32, 0#32, 25#32) := by decide

/-- 95_test_vectors BCD-10. -/
theorem test_bcd2_ff : view (exec (.bcd2 15#4 15#4) (loaded dec01)) = some (0x00000001#32, 0#32, 0#32, 165#32) := by decide

/-- 95_test_vectors PAR-04. -/
theorem test_parity_whole_telegram :
    view (exec (.parity 0 58) (loaded dec01)) = some (0x00000001#32, 0#32, 0#32, 1#32) := by decide

/-- 95_test_vectors PAR-12: AUX stays. -/
theorem test_parity_beyond_58 :
    view (exec (.parity 0 59) { loaded dec01 with aux := 0x77#8 }) = some (0x00000C08#32, 0#32, 0#32, 0x77#32) := by decide

/-- 95_test_vectors ILL-07, written to CMD. -/
theorem test_illegal_word_written :
    view (step ((loaded dec01).withFetchWord 32 0x00400003)) = some (0x00000B08#32, 0#32, 0#32, 0#32) := by decide

/-- 95_test_vectors BCD-04, written to CMD. -/
theorem test_bcd2_word_written :
    view (step ((loaded dec01).withFetchWord 32 0x00005902)) = some (0x00000001#32, 0#32, 0#32, 0x3B#32) := by decide

/-! ### Accesses -/

/-- 95_test_vectors REG-03: bits 31:27 of TEL_HI are not stored. -/
theorem test_tel_hi_masks :
    (nextOf (perform (.write 32 228 0xFFFFFFFF#32) (State.resetAt 7))).map (fun s => regRead s .telHi) =
      some 0x07FFFFFF#32 := by decide

/-- 95_test_vectors REG-11. -/
theorem test_misaligned_refused : refusalOf (perform (.read 32 226) (State.resetAt 7)) = some .misaligned := by decide

theorem test_halfword_refused : refusalOf (perform (.write 16 224 0#16) (State.resetAt 7)) = some .accessWidth := by decide

/-- 95_test_vectors REG-08: a write of TIME has no effect. -/
theorem test_time_is_read_only :
    view (perform (.write 32 240 0x12345678#32) (State.resetAt 7)) = some (0#32, 0#32, 0#32, 0#32) := by decide

/-! ### The host's side -/

/-- 95_test_vectors ADP-01 and ADP-03 in small: element i is bit i, and only 1 maps to 1. -/
theorem test_canonical_order : canonical [false, true, true] = 6#59 := by decide

/-- 95_test_vectors ADP-10. -/
theorem test_normBool_58 : normBool (List.replicate 58 true) = .error .invalidLength := by decide

/-- 95_test_vectors ADP-11. -/
theorem test_normInt_255 : normInt (List.replicate 59 255) = .ok 0#59 := by decide

/-- 95_test_vectors P2, second and third line, with a comment. -/
theorem test_assemble_text :
    assembleText 224 "wr TEL_LO, 0x52344C78 ; flip t[28]".toList = .ok [.write 32 224 0x52344C78#32] := by decide

/-- 95_test_vectors PAR-01. -/
theorem test_assemble_parity : assembleText 224 "parity 21, 27".toList = .ok [.write 32 232 0x001B1503#32] := by decide

/-! ### Inputs that meet the hypotheses of the statements -/

theorem witness_DecodeOfEncodeIsIdentity : WellFormed (.parity 63 63) ∧ WellFormed (.parity 0 0) := by decide

theorem witness_EncodeOfDecodeIsIdentity : decode 0x003F3F03#32 = .ok (.parity 63 63) := by decide

theorem witness_ExecuteFollowsOpcodeMap :
    rowBcd2 ∈ opcodeTable ∧ rowBcd2.hits 0x0000FF02#32 = true ∧ rowParity ∈ opcodeTable ∧
      rowParity.hits 0x003F3F03#32 = true := by decide

/-- 95_test_vectors ILL-01 to ILL-08: each clause of the illegal words at a boundary. -/
theorem witness_IllegalWordsFailAndChangeNothingElse :
    ∀ v ∈ ([0x00000004, 0x0000000F, 0x00000010, 0x80000001, 0x00010002, 0x00000012, 0x00004003, 0x00400003, 0x00000013]
      : List Word), ∀ r ∈ opcodeTable, r.hits v = false := by
  have h : (([0x00000004, 0x0000000F, 0x00000010, 0x80000001, 0x00010002, 0x00000012, 0x00004003, 0x00400003, 0x00000013]
      : List Word).all fun v => opcodeTable.all fun r => !r.hits v) = true := by decide
  simp only [List.all_eq_true, Bool.not_eq_true'] at h
  exact h

theorem witness_Bcd2WritesBinaryValue :
    (0x0000FF02#32 &&& 0xFFFF00FF#32 = 0x00000002#32 ∧ ((0x0000FF02#32 : Word).extractLsb' 0 4).toNat = 2) ∧
    ((0x00010002#32 : Word).extractLsb' 0 4).toNat = 2 ∧ (0x00010002#32 : Word).extractLsb' 16 16 ≠ 0#16 ∧
    ((0x00000012#32 : Word).extractLsb' 0 4).toNat = 2 ∧ (0x00000012#32 : Word).extractLsb' 4 4 ≠ 0#4 ∧ 255 ≤ 0xFF := by
  decide

/-- The year field of DEC-01: ones 4, tens 1. -/
theorem witness_Bcd2EqualsYearField :
    (∀ k < 4, dec01.getLsbD (50 + k) = (4#4 : Nibble).getLsbD k) ∧
      (∀ k < 4, dec01.getLsbD (54 + k) = (1#4 : Nibble).getLsbD k) := by decide

theorem witness_ParityCommandHasThreeOutcomes :
    (60 > 59) ∧ (0 ≤ 59 ∧ 59 > 58) ∧ (58 ≤ 58 ∧ 58 ≤ 58) ∧
    (0x00000003#32 &&& 0xFFC0C0FF#32 = 0x00000003#32 ∧ ((0x00000003#32 : Word).extractLsb' 0 4).toNat = 3) ∧
    ((0x00400003#32 : Word).extractLsb' 0 4).toNat = 3 ∧ (0x00400003#32 : Word).extractLsb' 22 10 ≠ 0#10 ∧
    (0x00004003#32 : Word).extractLsb' 14 2 ≠ 0#2 ∧ (0x00000013#32 : Word).extractLsb' 4 4 ≠ 0#4 ∧
    (63 ≤ 63 ∧ 0 ≤ 63) := by decide

theorem witness_FailedDecodeKeepsResultSlot : firstFailure (loaded 0#59).tel = some .frameB20 := by decide

theorem witness_SuccessfulDecodeOverwritesSlot : firstFailure (loaded dec01).tel = none := by decide

theorem witness_DecodeDependsOnTelegramAlone : (loaded dec01).tel = { loaded dec01 with aux := 1#8 }.tel := rfl

/-- DEC-01 against itself with bits 1 to 14 and 19 set. -/
theorem witness_IgnoredBitsDoNotAffectDecode :
    (∀ i < 59, ¬(1 ≤ i ∧ i ≤ 14) → i ≠ 19 → (loaded dec01).tel.getLsbD i = (dec01 ||| 0x87FFE#59).getLsbD i) ∧
      (1 ≤ 1 ∧ 14 ≤ 14) := by decide

theorem witness_StartBitSetAlwaysRejected :
    (loaded 1#59).tel.getLsbD 0 = true ∧ (loaded dec01).tel.getLsbD 0 = false := by decide

theorem witness_MissingTimeMarkerAlwaysRejected :
    (loaded 1#59).tel.getLsbD 20 = false ∧ (loaded dec01).tel.getLsbD 20 = true := by decide

theorem witness_SingleBitFlipIsCaught :
    decodeFn (loaded dec01).tel = .ok (extract dec01) ∧
      (21 ≤ 21 ∧ 27 ≤ 27) ∧ (29 ≤ 29 ∧ 34 ≤ 34) ∧ (36 ≤ 36 ∧ 57 ≤ 57) := by decide

theorem witness_GroupValueIsLsbFirst : (1 ≤ 1 ∧ 1 ≤ 4) ∧ (1 ≤ 4 ∧ 4 ≤ 4) := by decide

theorem witness_RegisterFieldsNeverOverflow : decodeFn dec01 = .ok (extract dec01) := by decide

theorem witness_RangeReportsFirstBrokenBound :
    rangeCheck 61 25 32 7 13 = some .rngMin ∧ rangeCheck 60 24 31 7 13 = some .rngMon := by decide

theorem witness_ParityDetectsSingleBitErrors :
    (57 ≤ 58 ∧ 58 ≤ 58 ∧ ¬(36 ≤ 58 ∧ 58 ≤ 57)) ∧ parityPasses dec01 36 57 58 = true ∧
      (36 ≠ 58 ∧ ((36 ≤ 36 ∧ 36 ≤ 57) ∨ 36 = 58) ∧ ((36 ≤ 58 ∧ 58 ≤ 57) ∨ 58 = 58)) := by decide

/-- Reset is released after reset: the premise of the access statements. -/
theorem witness_ReadsReturnRegistersWithoutSideEffect : (State.resetAt 7).resetAsserted = false ∧ 0 < 8 ∧ 7 < 8 := by
  decide

theorem witness_WritesFollowTheRegisterMap :
    (State.resetAt 7).resetAsserted = false ∧ (3 ≤ 3 ∧ 3 ≤ 7) ∧ (3 ≤ 7 ∧ 7 ≤ 7) := by decide

theorem witness_SideEffectsByOffset :
    (∃ t, perform (.read 32 236) (loaded dec01) = .next t) ∧ 3 ≤ RegName.status.offset ∧ 3 ≤ RegName.rsvd7.offset :=
  ⟨⟨_, rfl⟩, by decide, by decide⟩

theorem witness_BrokenAccessesAreRefused : (16 ≠ 32 ∨ 224 % 4 ≠ 0) ∧ (32 ≠ 32 ∨ 226 % 4 ≠ 0) := by decide

theorem witness_WindowBoundsTheAcceptedAddresses :
    (State.resetAt 7).resetAsserted = false ∧
    (224 % 4 = 0 ∧ 32 * (State.resetAt 7).baseIndex ≤ 224 ∧ 224 < 32 * (State.resetAt 7).baseIndex + 32) ∧
    (252 % 4 = 0 ∧ 252 < 32 * (State.resetAt 7).baseIndex + 32) ∧
    (256 % 4 = 0 ∧ ¬(32 * (State.resetAt 7).baseIndex ≤ 256 ∧ 256 < 32 * (State.resetAt 7).baseIndex + 32)) ∧
    (220 % 4 = 0 ∧ ¬(32 * (State.resetAt 7).baseIndex ≤ 220)) := by decide

/-- A state in which the events of the list are to be delivered. -/
def queued (evs : List BusEvent) (t : Telegram) : State := { loaded t with pending := evs }

theorem witness_StepRunsTheWrittenCommand :
    (queued [.write 32 232 0x00000001#32] dec01).resetAsserted = false ∧
    (queued [.write 32 232 0x00000001#32] dec01).pending =
      .write 32 (32 * (queued [.write 32 232 0x00000001#32] dec01).baseIndex + 8) 0x00000001#32 :: [] ∧
    decode 0x00000001#32 = .ok .decode ∧ decode 0x00000004#32 = .error (.reservedOpcode 4) ∧
    (loaded dec01).pending = [] := by decide

theorem witness_LegalSchedulesNeverStop :
    scheduleLegal (32 * (State.resetAt 7).baseIndex) (State.resetAt 7).resetAsserted
      [.write 32 224 0xFFFFFFFF#32, .assertReset, .releaseReset, .read 32 252, .write 32 232 0xFFFFFFFF#32] = true := by
  decide

theorem witness_ResetEventSetsRegistersAndRefusesAccesses : (applyReset (loaded dec01)).resetAsserted = true := by decide

/-- The state after a successful DECODE of DEC-01, VALID = 1. -/
def decoded : State := succeed (commit (extract dec01) (loaded dec01))

theorem decoded_stateInv : StateInv decoded where
  status := ⟨by decide, by decide, by decide, by decide⟩
  slot := ⟨by decide, fun _ => ⟨dec01, extract dec01, by decide, rfl, rfl⟩⟩
  bounds := ⟨by decide, by decide, by decide, by decide, by decide, by decide, by decide⟩
  reset := by intro h; exact absurd h (by decide)

theorem witness_EveryStepKeepsInvariant : StateInv decoded ∧ ∃ t, step decoded = .next t := ⟨decoded_stateInv, _, rfl⟩

theorem witness_OnlyTelWritesChangeTheTelegram :
    ∃ t, step (queued [.write 32 224 0#32] dec01) = .next t ∧ t.tel ≠ (queued [.write 32 224 0#32] dec01).tel :=
  ⟨_, rfl, by decide⟩

theorem witness_OnlyCommandsWriteStatus :
    ∃ t, step (queued [.write 32 232 1#32] dec01) = .next t ∧
      (t.status.ok, t.status.kind, t.status.cause) ≠ (false, Kind.none, Cause.none) ∧ t.status.valid ≠ false :=
  ⟨_, rfl, by decide, by decide⟩

theorem witness_OnlyResetClearsTheResultSlot :
    decoded.status.valid = true ∧ (∃ t, step { decoded with pending := [.assertReset] } = .next t) ∧
      ∃ t, step { decoded with pending := [.write 32 232 1#32] } = .next t :=
  ⟨by decide, ⟨_, rfl⟩, ⟨_, rfl⟩⟩

theorem witness_OnlyBcd2AndParityWriteAux :
    ∃ t, step (queued [.write 32 232 0x00005902#32] dec01) = .next t ∧ t.aux ≠ 0#8 := ⟨_, rfl, by decide⟩

theorem witness_OutcomesAreNotSticky : (0x00000004#32 : Word) ≠ 0x00000000#32 := by decide

theorem witness_SplitTelegramIsDecodedAsMixed : (loaded dec01).resetAsserted = false := by decide

/-- A pattern of 59 ones in the three forms; strings of 58, 57 and 60 characters. -/
theorem witness_AdaptersAgree :
    '0' ≠ '1' ∧ (List.replicate 59 true).length = 59 ∧ (List.replicate 59 (1 : Int)).length = 59 ∧
    (List.replicate 59 '1').length = 59 ∧
    (∀ i < 59, ((List.replicate 59 true)[i]? = some true ↔ (List.replicate 59 (1 : Int))[i]? = some 1) ∧
      ((List.replicate 59 true)[i]? = some true ↔ (List.replicate 59 '1')[i]? = some '1')) ∧
    (List.replicate 58 '1').length = 58 ∧ (List.replicate 57 '1').length = 57 ∧ (List.replicate 60 '1').length = 60 := by
  refine ⟨by decide, by decide, by decide, by decide, ?_, by decide, by decide, by decide⟩
  intro i hi
  simp only [List.getElem?_replicate, hi, if_true, and_self]

/-- DEC-01 as a sequence of booleans. -/
def dec01Bools : List Bool := (List.range 59).map fun i => dec01.getLsbD i

theorem witness_HostDecodeReturnsTheTelegramsResult :
    normInput '0' '1' (.bools dec01Bools) = .ok dec01 ∧ (State.resetAt 7).resetAsserted = false ∧
      normInput '0' '1' (.str (List.replicate 57 '1')) = .error .invalidLength := by decide

/-- The host decodes `x`, then `y`, and the first succeeds and the second fails. -/
def succeedsThenFails (x y : ExternalForm Char) (s : State) : Bool :=
  match hostDecode '0' '1' x s with
  | .next (t, .ok _) =>
    match hostDecode '0' '1' y t with
    | .next (_, .error _) => true
    | _ => false
  | _ => false

theorem exists_of_succeedsThenFails {x y : ExternalForm Char} {s : State} (h : succeedsThenFails x y s = true) :
    ∃ t u r e, hostDecode '0' '1' x s = .next (t, .ok r) ∧ hostDecode '0' '1' y t = .next (u, .error e) := by
  unfold succeedsThenFails at h
  split at h
  · rename_i t r h1
    split at h
    · rename_i u e h2; exact ⟨t, u, r, e, h1, h2⟩
    · cases h
  · cases h

set_option maxRecDepth 4000 in
theorem witness_LastResultSurvivesFailedDecodes :
    ∃ t u r e, hostDecode '0' '1' (.bools dec01Bools) (State.resetAt 7) = .next (t, .ok r) ∧
      hostDecode '0' '1' (.bools (List.replicate 57 false)) t = .next (u, .error e) :=
  exists_of_succeedsThenFails (by decide)

theorem witness_LastResultSurvivesFailedDecodes_empty_slot :
    StateInv (State.resetAt 7) ∧ (State.resetAt 7).resetAsserted = false ∧ (State.resetAt 7).status.valid = false := by
  refine ⟨⟨⟨rfl, by simp, by simp, by simp⟩, ⟨by simp, by simp⟩, ?_, by intro h; simp at h⟩, rfl, rfl⟩
  exact ⟨by decide, by decide, by decide, by decide, by decide, by decide, by decide⟩

theorem witness_LdtelLoadsTheTelegram :
    (State.resetAt 7).resetAsserted = false ∧ normStr '0' '1' (List.replicate 59 '0') = .ok 0#59 ∧
      (List.replicate 57 '0').length ≠ 58 ∧ (List.replicate 60 '0').length ≠ 59 := by decide

theorem witness_AssemblerEmitsTheCommandWord : 255 ≤ 0xFF ∧ 0xFF < 256 ∧ 63 ≤ 63 ∧ 63 < 64 := by decide

theorem witness_InstancesAreIndependent :
    ∃ q, Platform.stepBlock 1 ⟨[loaded 0#59, queued [.write 32 232 1#32] dec01]⟩ = .next q := ⟨_, rfl⟩

end Sys2Proof.Tests
end

section
/-! SUPPORT. What the registers hold (10_state R21, R22, R31, R37): bounds of the extracted fields, the widths of TIME and DATE,
and the two halves of TEL. -/

namespace Sys2Proof.Machine

theorem twoDigits_le {ones tens a b : Nat} (ho : ones ≤ a) (ht : tens ≤ b) : twoDigits ones tens ≤ a + 10 * b :=
  Nat.add_le_add ho (Nat.mul_le_mul_left 10 ht)

theorem extract_minute_le (t : Telegram) : (extract t).minute ≤ 85 :=
  twoDigits_le (groupValue_le t 21 24) (groupValue_le_seven t (by decide))

theorem extract_hour_le (t : Telegram) : (extract t).hour ≤ 45 :=
  twoDigits_le (groupValue_le t 29 32) (groupValue_le_three t (by decide))

theorem extract_day_le (t : Telegram) : (extract t).day ≤ 45 :=
  twoDigits_le (groupValue_le t 36 39) (groupValue_le_three t (by decide))

theorem extract_month_le (t : Telegram) : (extract t).month ≤ 25 :=
  twoDigits_le (groupValue_le t 45 48) (groupValue_le_one t (by decide))

/-- A value below the field's range is held without loss. -/
theorem toNat_ofNat_of_lt {w n : Nat} (h : n < 2 ^ w) : (BitVec.ofNat w n).toNat = n :=
  (BitVec.toNat_ofNat n w).trans (Nat.mod_eq_of_lt h)

/-- The fields of TIME hold the extracted values, before any check (10_state R31). -/
theorem time_extract_exact (t : Telegram) :
    (extract t).time.minute.toNat = (extract t).minute ∧ (extract t).time.hour.toNat = (extract t).hour ∧
      (extract t).time.summer.toInt = (extract t).summer := by
  have hm := extract_minute_le t
  have hh := extract_hour_le t
  obtain ⟨hlo, hhi⟩ : -1 ≤ (extract t).summer ∧ (extract t).summer ≤ 2 := summerOf_range t
  exact ⟨toNat_ofNat_of_lt (by omega), toNat_ofNat_of_lt (by omega),
    BitVec.toInt_ofInt_eq_self (by decide) (by omega) (by omega)⟩

/-- The fields of DATE hold the extracted values, before any check (10_state R31). -/
theorem date_extract_exact (t : Telegram) :
    (extract t).date.day.toNat = (extract t).day ∧ (extract t).date.wday.toNat = (extract t).weekday ∧
      (extract t).date.month.toNat = (extract t).month ∧ (extract t).date.year.toNat = (extract t).year := by
  have hd := extract_day_le t
  have hw := extract_weekday_le t
  have hm := extract_month_le t
  have hy := extract_year_le t
  exact ⟨toNat_ofNat_of_lt (by omega), toNat_ofNat_of_lt (by omega), toNat_ofNat_of_lt (by omega),
    toNat_ofNat_of_lt (by omega)⟩

/-- The fields of a telegram that decodes are within the committed bounds (10_state R31, 44_range_validation R193). -/
theorem decodeFn_ok_bounds {t : Telegram} {f : Fields} (h : decodeFn t = .ok f) :
    f.minute ≤ 60 ∧ f.hour ≤ 24 ∧ f.day ≤ 31 ∧ f.weekday ≤ 7 ∧ f.month ≤ 12 ∧ f.year ≤ 165 ∧
      -1 ≤ f.summer ∧ f.summer ≤ 2 := by
  obtain ⟨-, -, -, -, -, hrange, rfl⟩ := decodeFn_ok h
  obtain ⟨hminute, hhour, hday, hweekday, hmonth⟩ := rangeCheck_none hrange
  exact ⟨hminute, hhour, hday, hweekday, hmonth, extract_year_le t, summerOf_range t⟩

/-- The telegram that decodes with every field at its committed maximum: minute 60, hour 24, day 31, weekday 7, month 12, year
165, SUMMER 2, with the parity bits that go with them. -/
def largestDecodable : Telegram := 0x3FE5F148C160000#59

theorem largestDecodable_decodes : decodeFn largestDecodable = .ok (extract largestDecodable) := by decide

theorem extract_largestDecodable : extract largestDecodable =
    { ant := false, tchg := false, summer := 2, minute := 60, hour := 24, day := 31, weekday := 7, month := 12,
      year := 165 } := by decide

/-- With every telegram bit 1 the extractor gives the largest value of every field. -/
theorem extract_allOnes : extract (BitVec.allOnes 59) =
    { ant := true, tchg := true, summer := 2, minute := 85, hour := 45, day := 45, weekday := 7, month := 25,
      year := 165 } := by decide

/-- TEL_LO reads the low 32 bits of the telegram: after a write of TEL_LO, the value written. -/
@[simp] theorem regRead_telLo_writeTelLo (v : Word) (s : State) : regRead (writeTelLo v s) .telLo = v :=
  BitVec.extractLsb'_append_eq_right

@[simp] theorem regRead_telHi_writeTelLo (v : Word) (s : State) :
    regRead (writeTelLo v s) .telHi = regRead s .telHi :=
  congrArg (BitVec.setWidth 32) BitVec.extractLsb'_append_eq_left

theorem getLsbD_writeTelLo_tel (v : Word) (s : State) {i : Nat} (h : i < 32) :
    (writeTelLo v s).tel.getLsbD i = v.getLsbD i := by
  rw [writeTelLo_tel, BitVec.getLsbD_append, if_pos h]

/-- Keeping the low 27 bits of a word is masking it with 27 ones. -/
theorem setWidth_extract_low27 (v : Word) : (v.extractLsb' 0 27).setWidth 32 = v &&& 0x07FFFFFF#32 := by
  have hmask : 0x07FFFFFF#32 = (BitVec.allOnes 27).setWidth 32 := by decide
  refine BitVec.eq_of_getLsbD_eq fun i hi => ?_
  rw [hmask, BitVec.getLsbD_and, BitVec.getLsbD_setWidth, BitVec.getLsbD_setWidth, BitVec.getLsbD_extractLsb',
    BitVec.getLsbD_allOnes, Nat.zero_add, decide_eq_true hi, Bool.true_and, Bool.true_and, Bool.and_comm]

@[simp] theorem regRead_telHi_writeTelHi (v : Word) (s : State) :
    regRead (writeTelHi v s) .telHi = v &&& 0x07FFFFFF#32 :=
  (congrArg (BitVec.setWidth 32) BitVec.extractLsb'_append_eq_left).trans (setWidth_extract_low27 v)

@[simp] theorem regRead_telLo_writeTelHi (v : Word) (s : State) :
    regRead (writeTelHi v s) .telLo = regRead s .telLo :=
  BitVec.extractLsb'_append_eq_right

theorem getLsbD_writeTelHi_tel (v : Word) (s : State) {j : Nat} (h : j < 27) :
    (writeTelHi v s).tel.getLsbD (32 + j) = v.getLsbD j := by
  rw [writeTelHi_tel, BitVec.getLsbD_append, if_neg (by omega), Nat.add_sub_cancel_left, BitVec.getLsbD_extractLsb',
    Nat.zero_add, decide_eq_true h, Bool.true_and]

@[simp] theorem statusReset_word : Status.reset.word = 0x00000000#32 := by decide

@[simp] theorem timeReset_word : TimeReg.reset.word = 0x00000000#32 := by decide

@[simp] theorem dateReset_word : DateReg.reset.word = 0x00000000#32 := by decide

/-- Every word of the window reads zero after reset (10_state R37). -/
theorem regRead_resetAt (b : Nat) (r : RegName) : regRead (State.resetAt b) r = 0x00000000#32 := by
  cases r <;> simp [regRead]

end Sys2Proof.Machine

namespace Sys2Proof.Claims

open Sys2Proof.Machine

/-- Settles O22: the group widths bound the extracted values, each field is wide enough for its bound, and two telegrams reach
the two rows of maxima. -/
theorem registerFieldsNeverOverflow : Obligations.RegisterFieldsNeverOverflow := by
  intro t
  obtain ⟨hminute, hhour, hsummer⟩ := time_extract_exact t
  obtain ⟨hday, hwday, hmonth, hyear⟩ := date_extract_exact t
  refine ⟨⟨extract_minute_le t, extract_hour_le t, extract_day_le t, extract_weekday_le t, extract_month_le t,
    extract_year_le t, summerOf_range t⟩, hminute, hhour, hsummer, hday, hwday, hmonth, hyear,
    fun f => decodeFn_ok_bounds, ⟨BitVec.allOnes 59, ?_⟩, largestDecodable, _, largestDecodable_decodes, ?_⟩
  · rw [extract_allOnes]; decide
  · rw [extract_largestDecodable]; decide

/-- Settles O31: each TEL write replaces one of the two halves that TEL is the concatenation of. -/
theorem telegramHalvesReadBack : Obligations.TelegramHalvesReadBack := by
  intro s v
  exact ⟨⟨writeTelLo v s, rfl, regRead_telLo_writeTelLo v s, regRead_telHi_writeTelLo v s,
      fun _ => getLsbD_writeTelLo_tel v s⟩,
    ⟨writeTelHi v s, rfl, regRead_telHi_writeTelHi v s, regRead_telLo_writeTelHi v s,
      fun _ => getLsbD_writeTelHi_tel v s⟩⟩

/-- Settles O38: the reset value of each storage field, then the eight words by case on the register. -/
theorem resetLeavesEveryRegisterZero : Obligations.ResetLeavesEveryRegisterZero := by
  intro b
  exact ⟨resetAt_tel b, resetAt_status b, resetAt_time b, resetAt_date b, resetAt_aux b, regRead_resetAt b⟩

end Sys2Proof.Claims
end

section
/-! SUPPORT. The register window seen from the bus (20_memory R52 to R61): the words it reads, what a write leaves, which accesses
are refused, and that no access depends on the queue behind it. -/

namespace Sys2Proof.Machine

/-- Each word offset of the window has its register (10_state section 1). -/
theorem exists_offset_eq {k : Nat} (h : k < 8) : ∃ r : RegName, r.offset = k := by
  interval_cases k
  exacts [⟨.telLo, rfl⟩, ⟨.telHi, rfl⟩, ⟨.cmd, rfl⟩, ⟨.status, rfl⟩, ⟨.time, rfl⟩, ⟨.date, rfl⟩, ⟨.aux, rfl⟩,
    ⟨.rsvd7, rfl⟩]

/-- The eight words of the window in offset order, the two halves of the telegram as numbers (20_memory R52). -/
def windowWords (s : State) : List Word :=
  [BitVec.ofNat 32 s.tel.toNat, BitVec.ofNat 32 (s.tel.toNat / 2 ^ 32), 0#32, s.status.word, s.time.word, s.date.word,
    BitVec.ofNat 32 s.aux.toNat, 0#32]

theorem regRead_telLo_eq_ofNat (s : State) : regRead s .telLo = BitVec.ofNat 32 s.tel.toNat := by
  apply BitVec.eq_of_toNat_eq
  rw [regRead, BitVec.extractLsb'_toNat, BitVec.toNat_ofNat, Nat.shiftRight_zero]

/-- The upper half has 27 bits, so neither the extraction nor the extension to a word loses one. -/
theorem regRead_telHi_eq_ofNat (s : State) : regRead s .telHi = BitVec.ofNat 32 (s.tel.toNat / 2 ^ 32) := by
  have hbound : s.tel.toNat / 2 ^ 32 < 2 ^ 27 := by have := s.tel.isLt; omega
  apply BitVec.eq_of_toNat_eq
  rw [regRead, BitVec.toNat_setWidth, BitVec.extractLsb'_toNat, BitVec.toNat_ofNat, Nat.shiftRight_eq_div_pow,
    Nat.mod_eq_of_lt hbound]

/-- A register reads as the word at its offset. -/
theorem windowWords_getD_offset (s : State) (r : RegName) : (windowWords s).getD r.offset 0#32 = regRead s r := by
  cases r with
  | telLo => exact (regRead_telLo_eq_ofNat s).symm
  | telHi => exact (regRead_telHi_eq_ofNat s).symm
  | aux => exact BitVec.ofNat_toNat 32 s.aux
  | cmd | status | time | date | rsvd7 => rfl

/-- A write of TEL_LO leaves the upper half of the telegram. -/
theorem getLsbD_writeTelLo_tel_of_ge (v : Word) (s : State) {i : Nat} (h : 32 ≤ i) (hi : i < 59) :
    (writeTelLo v s).tel.getLsbD i = s.tel.getLsbD i := by
  rw [writeTelLo_tel, BitVec.getLsbD_append, if_neg (by omega), BitVec.getLsbD_extractLsb', Nat.add_sub_cancel' h,
    decide_eq_true (by omega), Bool.true_and]

/-- A write of TEL_HI leaves the lower half of the telegram. -/
theorem getLsbD_writeTelHi_tel_of_lt (v : Word) (s : State) {i : Nat} (h : i < 32) :
    (writeTelHi v s).tel.getLsbD i = s.tel.getLsbD i := by
  rw [writeTelHi_tel, BitVec.getLsbD_append, if_pos h, BitVec.getLsbD_extractLsb', Nat.zero_add, decide_eq_true h,
    Bool.true_and]

/-- Every bit of the telegram after a write of TEL_LO (10_state R21). -/
theorem getLsbD_writeTelLo_tel_eq_ite (v : Word) (s : State) {i : Nat} (hi : i < 59) :
    (writeTelLo v s).tel.getLsbD i = if i < 32 then v.getLsbD i else s.tel.getLsbD i := by
  split
  · exact getLsbD_writeTelLo_tel v s ‹_›
  · exact getLsbD_writeTelLo_tel_of_ge v s (by omega) hi

/-- Every bit of the telegram after a write of TEL_HI (10_state R22). -/
theorem getLsbD_writeTelHi_tel_eq_ite (v : Word) (s : State) {i : Nat} (hi : i < 59) :
    (writeTelHi v s).tel.getLsbD i = if i < 32 then s.tel.getLsbD i else v.getLsbD (i - 32) := by
  split
  · exact getLsbD_writeTelHi_tel_of_lt v s ‹_›
  · have h := getLsbD_writeTelHi_tel v s (j := i - 32) (by omega)
    rwa [Nat.add_sub_cancel' (by omega)] at h

@[simp] theorem writeTelLo_writeTelLo (v : Word) (s : State) : writeTelLo v (writeTelLo v s) = writeTelLo v s :=
  congrArg (fun hi : BitVec 27 => { s with tel := hi ++ v }) BitVec.extractLsb'_append_eq_left

@[simp] theorem writeTelHi_writeTelHi (v : Word) (s : State) : writeTelHi v (writeTelHi v s) = writeTelHi v s :=
  congrArg (fun lo : BitVec 32 => { s with tel := v.extractLsb' 0 27 ++ lo }) BitVec.extractLsb'_append_eq_right

/-- The words from offset 3 upward are read-only or reserved (20_memory R53). -/
theorem regWrite_of_three_le {r : RegName} (h : 3 ≤ r.offset) (v : Word) (s : State) : regWrite r v s = .next s := by
  cases r with
  | telLo | telHi | cmd => exact absurd h (by decide)
  | status | time | date | aux | rsvd7 => rfl

/-- A read that completes leaves everything but the record of reads. -/
theorem perform_read_frame {s t : State} {w a : Nat} (h : perform (.read w a) s = .next t) :
    { t with readLog := s.readLog } = s := by
  obtain ⟨r, -, -, rfl⟩ | ⟨_, _, hev, -⟩ | ⟨hev, -⟩ | ⟨hev, -⟩ := perform_cases h
  · rfl
  all_goals cases hev

theorem exec_decode_of_error {s : State} {c : Cause} (h : decodeFn s.tel = .error c) :
    exec .decode s = .next (fail c.kind c s) := by
  rw [exec, execDecode, h]

theorem exec_decode_of_ok {s : State} {f : Fields} (h : decodeFn s.tel = .ok f) :
    exec .decode s = .next (succeed (commit f s)) := by
  rw [exec, execDecode, h]

/-- DECODE keeps TEL, so a second one has the outcome of the first and writes the same values again (20_memory R58). -/
theorem exec_decode_twice (s : State) : ∃ t, exec .decode s = .next t ∧ exec .decode t = .next t := by
  cases h : decodeFn s.tel with
  | error c => exact ⟨_, exec_decode_of_error h, exec_decode_of_error h⟩
  | ok f => exact ⟨_, exec_decode_of_ok h, exec_decode_of_ok h⟩

theorem addrOf_mod_four (s : State) (r : RegName) : s.addrOf r % 4 = 0 := by
  rw [addrOf_eq]; omega

/-- No broken access reaches a register (20_memory R54, R55). -/
theorem classify_error_of_broken (s : State) {w a : Nat} (h : w ≠ 32 ∨ a % 4 ≠ 0) : ∃ e, classify s w a = .error e := by
  cases hc : classify s w a with
  | error e => exact ⟨e, rfl⟩
  | ok r =>
    obtain ⟨-, rfl, rfl⟩ := classify_ok.1 hc
    have := addrOf_mod_four s r
    omega

theorem perform_read_of_error {s : State} {w a : Nat} {e : Refusal} (h : classify s w a = .error e) :
    perform (.read w a) s = .refused e := by
  rw [perform, h]

theorem perform_write_of_error {s : State} {w a : Nat} {e : Refusal} (h : classify s w a = .error e) (x : BitVec w) :
    perform (.write w a x) s = .refused e := by
  rw [perform, h]

theorem perform_read_of_ok {s : State} {w a : Nat} {r : RegName} (h : classify s w a = .ok r) :
    perform (.read w a) s = .next (recordRead (regRead s r) s) := by
  rw [perform, h]

theorem perform_write_of_ok {s : State} {w a : Nat} {r : RegName} (h : classify s w a = .ok r) (x : BitVec w) :
    perform (.write w a x) s = regWrite r (x.setWidth 32) s := by
  rw [perform, h]

/-- The state with another queue of events behind the current one. -/
def withPending (q : List BusEvent) (s : State) : State := { s with pending := q }

/-- The outcome with another queue in its next state. -/
def queueAfter (q : List BusEvent) (o : Host.Outcome State Fault Refusal) : Host.Outcome State Fault Refusal :=
  andThen o fun t => .next (withPending q t)

/-- A command does not see the queue. -/
theorem exec_withPending (q : List BusEvent) (i : Instr) (s : State) :
    exec i (withPending q s) = queueAfter q (exec i s) := by
  cases i with
  | nop => rfl
  | bcd2 bh bl => rfl
  | decode =>
    cases h : decodeFn s.tel with
    | error c => rw [exec_decode_of_error h]; exact exec_decode_of_error h
    | ok f => rw [exec_decode_of_ok h]; exact exec_decode_of_ok h
  | parity a b =>
    simp only [exec, execParity]
    split
    · rfl
    · split <;> rfl

theorem execute_withPending (q : List BusEvent) (v : Word) (s : State) :
    execute v (withPending q s) = queueAfter q (execute v s) := by
  unfold execute
  split
  · exact exec_withPending q _ s
  · rfl

theorem regWrite_withPending (q : List BusEvent) (r : RegName) (v : Word) (s : State) :
    regWrite r v (withPending q s) = queueAfter q (regWrite r v s) := by
  cases r with
  | cmd => exact execute_withPending q v s
  | telLo | telHi | status | time | date | aux | rsvd7 => rfl

/-- Which register an access reaches depends on the reset input and the window's place alone. -/
theorem classify_withPending (q : List BusEvent) (s : State) (w a : Nat) :
    classify (withPending q s) w a = classify s w a := rfl

/-- An event neither reads nor writes the queue behind it. -/
theorem perform_withPending (q : List BusEvent) (ev : BusEvent) (s : State) :
    perform ev (withPending q s) = queueAfter q (perform ev s) := by
  cases ev with
  | read w a =>
    cases h : classify s w a with
    | error e => rw [perform_read_of_error h]; exact perform_read_of_error h
    | ok r => rw [perform_read_of_ok h]; exact perform_read_of_ok h
  | write w a x =>
    cases h : classify s w a with
    | error e => rw [perform_write_of_error h]; exact perform_write_of_error (s := withPending q s) h x
    | ok r =>
      rw [perform_write_of_ok h, ← regWrite_withPending]
      exact perform_write_of_ok (s := withPending q s) h x
  | assertReset => rfl
  | releaseReset => rfl

theorem step_withPending_cons (ev : BusEvent) (rest : List BusEvent) (s : State) :
    step (withPending (ev :: rest) s) = queueAfter rest (perform ev s) :=
  perform_withPending rest ev s

/-- One event of a longer run: the first step, then the run from the state it left. -/
theorem core_run_succ (n : Nat) (s : State) :
    Host.Core.run core (n + 1) s = andThen (step s) (Host.Core.run core n) := by
  simp only [Host.Core.run]
  change _ = andThen (core.step s) _
  cases core.step s with
  | next _ | fault _ | refused _ => rfl

theorem performAll_cons_withPending (q : List BusEvent) (ev : BusEvent) (rest : List BusEvent) (s : State) :
    performAll (ev :: rest) (withPending q s) = andThen (queueAfter q (perform ev s)) (performAll rest) := by
  rw [performAll, perform_withPending]

/-- Running a queue of events to its end is performing them in order (20_memory R61). -/
theorem core_run_withPending (evs : List BusEvent) (s : State) :
    Host.Core.run core evs.length (withPending evs s) = performAll evs (withPending [] s) := by
  induction evs generalizing s with
  | nil => rfl
  | cons ev rest ih =>
    rw [List.length_cons, core_run_succ, step_withPending_cons, performAll_cons_withPending]
    cases perform ev s with
    | next t => exact ih t
    | fault r => rfl
    | refused r => rfl

end Sys2Proof.Machine

namespace Sys2Proof.Claims

open Sys2Proof.Machine

/-- Settles O29: offset k names a register, whose read by the host is recorded and whose word stands at k in the list. -/
theorem readsReturnRegistersWithoutSideEffect : Obligations.ReadsReturnRegistersWithoutSideEffect := by
  intro s hreset k hk
  obtain ⟨r, rfl⟩ := exists_offset_eq hk
  have hread : perform (.read 32 (s.addrOf r)) s = .next (recordRead (regRead s r) s) := perform_read hreset r
  rw [← windowWords_getD_offset s r] at hread
  exact hread

/-- Settles O30: the write at each register's address is its register write, and the two TEL writes are known bit by bit. -/
theorem writesFollowTheRegisterMap : Obligations.WritesFollowTheRegisterMap := by
  intro s v hreset
  refine ⟨⟨(writeTelLo v s).tel, perform_write hreset .telLo v, fun _ => getLsbD_writeTelLo_tel_eq_ite v s⟩,
    ⟨(writeTelHi v s).tel, perform_write hreset .telHi v, fun _ => getLsbD_writeTelHi_tel_eq_ite v s⟩,
    perform_write hreset .cmd v, fun k hlo hhi => ?_⟩
  obtain ⟨r, rfl⟩ := exists_offset_eq (Nat.lt_succ_of_le hhi)
  exact (perform_write hreset r v).trans (regWrite_of_three_le hlo v s)

/-- Settles O32: the frame of a read, the idempotence of the TEL writes and of DECODE, and the writes with no effect. -/
theorem sideEffectsByOffset : Obligations.SideEffectsByOffset := by
  refine ⟨fun _ _ _ _ => perform_read_frame, fun s v => ⟨writeTelLo v s, writeTelHi v s, rfl, ?_, rfl, ?_⟩,
    fun s v _ h => regWrite_of_three_le h v s, fun _ _ => rfl, exec_decode_twice⟩
  · rw [regWrite, writeTelLo_writeTelLo]
  · rw [regWrite, writeTelHi_writeTelHi]

/-- Settles O33: a broken access reaches no register, so its read and its write end in the same refusal. -/
theorem brokenAccessesAreRefused : Obligations.BrokenAccessesAreRefused := by
  intro s w a x hbroken
  obtain ⟨e, he⟩ := classify_error_of_broken s hbroken
  exact ⟨⟨e, perform_read_of_error he⟩, ⟨e, perform_write_of_error he x⟩⟩

/-- Settles O36, by induction on the queue: no access sees the queue behind it. -/
theorem stepsPerformAccessesInOrder : Obligations.StepsPerformAccessesInOrder :=
  fun s => core_run_withPending s.pending s

end Sys2Proof.Claims
end

section
/-! SUPPORT. The opcode map and the telegram load (30_encoding R75, R76, R79): the rows of the opcode table as fields of the word,
`execute` as the chain over the rows, and what the two writes of `ldtel` leave. -/

namespace Sys2Proof

/-- Two words are equal when they agree on fields, given as lowest bit and width, that cover all 32 bits. -/
theorem word_eq_iff_fields (fields : List (Nat × Nat)) (hcover : ∀ i < 32, ∃ f ∈ fields, f.1 ≤ i ∧ i < f.1 + f.2)
    (v w : Word) : v = w ↔ ∀ f ∈ fields, v.extractLsb' f.1 f.2 = w.extractLsb' f.1 f.2 := by
  refine ⟨fun h f _ => by rw [h], fun h => BitVec.eq_of_getLsbD_eq fun i hi => ?_⟩
  obtain ⟨f, hf, hlo, hhi⟩ := hcover i hi
  have hbit := congrArg (fun x => x.getLsbD (i - f.1)) (h f hf)
  simpa [BitVec.getLsbD_extractLsb', show i - f.1 < f.2 by omega, Nat.add_sub_cancel' hlo] using hbit

/-- A mask of ones keeps the field; `simp` meets such a mask as a literal and evaluates `allOnes` to compare. -/
theorem and_of_eq_allOnes {n : Nat} {x m : BitVec n} (h : m = BitVec.allOnes n) : x &&& m = x := by
  rw [h, BitVec.and_allOnes]

theorem opField_eq_iff {v : Word} {k : Nat} (hk : k < 16) : opField v = k ↔ v.extractLsb' 0 4 = BitVec.ofNat 4 k := by
  rw [opField, ← BitVec.toNat_inj, BitVec.toNat_ofNat, Nat.mod_eq_of_lt hk]

theorem hits_nop_iff_fields (v : Word) : rowNop.hits v = true ↔ opField v = 0 ∧ v.extractLsb' 4 28 = 0#28 := by
  rw [hits_nop, word_eq_iff_fields [(0, 4), (4, 28)] (by decide), opField_eq_iff (by decide)]
  simp

theorem hits_decode_iff_fields (v : Word) :
    rowDecode.hits v = true ↔ opField v = 1 ∧ v.extractLsb' 4 28 = 0#28 := by
  rw [hits_decode, word_eq_iff_fields [(0, 4), (4, 28)] (by decide), opField_eq_iff (by decide)]
  simp

theorem hits_bcd2_iff_fields (v : Word) :
    rowBcd2.hits v = true ↔ opField v = 2 ∧ v.extractLsb' 16 16 = 0#16 ∧ v.extractLsb' 4 4 = 0#4 := by
  rw [OpcodeRow.hits, beq_iff_eq, word_eq_iff_fields [(0, 4), (16, 16), (8, 8), (4, 4)] (by decide),
    opField_eq_iff (by decide)]
  simp [rowBcd2, BitVec.extractLsb'_and, and_of_eq_allOnes]

theorem hits_parity_iff_fields (v : Word) :
    rowParity.hits v = true ↔
      opField v = 3 ∧ v.extractLsb' 22 10 = 0#10 ∧ v.extractLsb' 14 2 = 0#2 ∧ v.extractLsb' 4 4 = 0#4 := by
  rw [OpcodeRow.hits, beq_iff_eq,
    word_eq_iff_fields [(0, 4), (22, 10), (16, 6), (14, 2), (8, 6), (4, 4)] (by decide), opField_eq_iff (by decide)]
  simp [rowParity, BitVec.extractLsb'_and, and_of_eq_allOnes]

/-- Every row's mask keeps the opcode field. -/
theorem mask_keeps_opcode : ∀ r ∈ opcodeTable, r.mask.extractLsb' 0 4 = BitVec.allOnes 4 := by decide

/-- The match values of the rows differ in their opcodes. -/
theorem eq_of_pattern_opcode_eq : ∀ r ∈ opcodeTable, ∀ q ∈ opcodeTable,
    opField r.pattern = opField q.pattern → r = q := by decide

/-- A word has the opcode of a row that matches it. -/
theorem opField_of_hits {r : OpcodeRow} (hr : r ∈ opcodeTable) {v : Word} (h : r.hits v = true) :
    opField r.pattern = opField v := by
  rw [OpcodeRow.hits, beq_iff_eq] at h
  rw [opField, ← h, BitVec.extractLsb'_and, and_of_eq_allOnes (mask_keeps_opcode r hr), opField]

theorem forall_opcodeTable_not_hits (v : Word) : (∀ r ∈ opcodeTable, r.hits v = false) ↔
    rowNop.hits v = false ∧ rowDecode.hits v = false ∧ rowBcd2.hits v = false ∧ rowParity.hits v = false := by
  simp [opcodeTable]

end Sys2Proof

namespace Sys2Proof.Machine

/-- `Execute` as the chain over the rows of the opcode table (30_encoding R75). -/
theorem execute_eq_ite_hits (v : Word) (s : State) : execute v s =
    if rowNop.hits v then exec .nop s
    else if rowDecode.hits v then exec .decode s
    else if rowBcd2.hits v then exec (.bcd2 (bhField v) (blField v)) s
    else if rowParity.hits v then exec (.parity (sField v) (eField v)) s
    else .next (fail .illegal .illCmd s) := by
  unfold execute decode
  split_ifs <;> rfl

/-- A word that no row matches is an illegal command. -/
theorem execute_of_hits_none {v : Word} (h : ∀ r ∈ opcodeTable, r.hits v = false) (s : State) :
    execute v s = .next (fail .illegal .illCmd s) := by
  obtain ⟨hnop, hdecode, hbcd2, hparity⟩ := (forall_opcodeTable_not_hits v).1 h
  simp [execute_eq_ite_hits, hnop, hdecode, hbcd2, hparity]

/-- A write of each half loads the telegram that the halves make up. -/
theorem writeTelHi_writeTelLo_eq {lo hi : Word} {bits : Telegram} (s : State)
    (hlo : ∀ i < 32, lo.getLsbD i = bits.getLsbD i) (hhi : ∀ j < 27, hi.getLsbD j = bits.getLsbD (32 + j)) :
    writeTelHi hi (writeTelLo lo s) = { s with tel := bits } := by
  have htel : (writeTelHi hi (writeTelLo lo s)).tel = bits := by
    refine BitVec.eq_of_getLsbD_eq fun i hi59 => ?_
    rw [getLsbD_writeTelHi_tel_eq_ite _ _ hi59]
    split
    · rw [getLsbD_writeTelLo_tel _ _ ‹_›, hlo i ‹_›]
    · rw [hhi (i - 32) (by omega), Nat.add_sub_cancel' (by omega)]
  rw [← htel]
  rfl

/-- The accesses of `ldtel` are two register writes, TEL_LO first. -/
theorem performAll_telWrites {s : State} (hreset : s.resetAsserted = false) (lo hi : Word) :
    performAll [.write 32 (32 * s.baseIndex) lo, .write 32 (32 * s.baseIndex + 4) hi] s =
      .next (writeTelHi hi (writeTelLo lo s)) := by
  have hlo : perform (.write 32 (32 * s.baseIndex) lo) s = .next (writeTelLo lo s) := perform_write hreset .telLo lo
  have hhi : perform (.write 32 (32 * s.baseIndex + 4) hi) (writeTelLo lo s) =
      .next (writeTelHi hi (writeTelLo lo s)) := perform_write (s := writeTelLo lo s) hreset .telHi hi
  simp [performAll, andThen, hlo, hhi]

theorem getLsbD_telLoWord (bits : Telegram) {i : Nat} (h : i < 32) :
    (bits.extractLsb' 0 32).getLsbD i = bits.getLsbD i := by
  simp [h]

/-- The word written to TEL_HI holds the upper 27 bits of the telegram, and zeros where the telegram has ended. -/
theorem getLsbD_telHiWord (bits : Telegram) {j : Nat} (h : j < 32) :
    ((bits.extractLsb' 32 27).setWidth 32).getLsbD j = bits.getLsbD (32 + j) := by
  rw [BitVec.getLsbD_setWidth, decide_eq_true h, Bool.true_and, BitVec.getLsbD_extractLsb']
  by_cases hj : j < 27
  · rw [decide_eq_true hj, Bool.true_and]
  · rw [decide_eq_false hj, Bool.false_and, BitVec.getLsbD_of_ge _ _ (by omega)]

theorem assemble_ldtels_of_ok (base : Nat) {cs : List Char} {bits : Telegram} (h : normStr '0' '1' cs = .ok bits) :
    assemble base (.ldtels cs) = assemble base (.ldtel bits) := by
  simp only [assemble, h]

/-- Only the length can make the string adapter refuse (40_input_adapters R102, R104). -/
theorem normStr_of_length_ne {γ : Type} [DecidableEq γ] (zero one : γ) {cs : List γ} (h58 : cs.length ≠ 58)
    (h59 : cs.length ≠ 59) : normStr zero one cs = .error .invalidLength := by
  rw [normStr, if_neg h59, if_neg h58]

theorem assemble_ldtels_of_error (base : Nat) {cs : List Char} {e : ErrorKind} (h : normStr '0' '1' cs = .error e) :
    assemble base (.ldtels cs) = .error .invalidLength := by
  simp only [assemble, h]

end Sys2Proof.Machine

namespace Sys2Proof.Claims

open Sys2Proof.Machine

/-- Settles O4: two rows that match one word share its opcode, and the chain of `execute` is the chain over the rows. -/
theorem executeFollowsOpcodeMap : Obligations.ExecuteFollowsOpcodeMap := by
  refine ⟨fun v r hr q hq hrv hqv => ?_, fun v s => ?_⟩
  · exact eq_of_pattern_opcode_eq r hr q hq ((opField_of_hits hr hrv).trans (opField_of_hits hq hqv).symm)
  · have hbcd2 : rowBcd2.hits v = true ↔ v &&& 0xFFFF00FF#32 = 0x00000002#32 := beq_iff_eq
    have hparity : rowParity.hits v = true ↔ v &&& 0xFFC0C0FF#32 = 0x00000003#32 := beq_iff_eq
    simp only [execute_eq_ite_hits, hits_nop, hits_decode, hbcd2, hparity]
    rfl

/-- Settles O5, by the value of the opcode: at most one row has it, and that row asks for the format's zero bits. -/
theorem illegalWordsFailAndChangeNothingElse : Obligations.IllegalWordsFailAndChangeNothingElse := by
  intro v
  refine ⟨?_, fun h s => execute_of_hits_none h s⟩
  change _ ↔ 4 ≤ opField v ∨ (opField v ≤ 1 ∧ _) ∨ (opField v = 2 ∧ _) ∨ (opField v = 3 ∧ _)
  rw [forall_opcodeTable_not_hits]
  simp only [← Bool.not_eq_true, hits_nop_iff_fields, hits_decode_iff_fields, hits_bcd2_iff_fields,
    hits_parity_iff_fields]
  obtain hop | hop | hop | hop | hop :
      opField v = 0 ∨ opField v = 1 ∨ opField v = 2 ∨ opField v = 3 ∨ 4 ≤ opField v := by omega
  · simp [hop]
  · simp [hop]
  · simp [hop, imp_iff_not_or]
  · simp [hop, imp_iff_not_or]
  · exact iff_of_true ⟨fun h => by omega, fun h => by omega, fun h => by omega, fun h => by omega⟩ (.inl hop)

/-- Settles O52: the two writes replace both halves of TEL, and only the length can make the string adapter refuse. -/
theorem ldtelLoadsTheTelegram : Obligations.LdtelLoadsTheTelegram := by
  intro s bits hreset
  refine ⟨⟨bits.extractLsb' 0 32, (bits.extractLsb' 32 27).setWidth 32, rfl, fun _ => getLsbD_telLoWord bits,
      fun _ => getLsbD_telHiWord bits, ?_⟩, fun _ => assemble_ldtels_of_ok _,
    fun cs h58 h59 => assemble_ldtels_of_error _ (normStr_of_length_ne '0' '1' h58 h59)⟩
  rw [performAll_telWrites hreset,
    writeTelHi_writeTelLo_eq s (fun _ => getLsbD_telLoWord bits)
      fun _ hj => getLsbD_telHiWord bits (hj.trans (by decide))]

end Sys2Proof.Claims
end

section
/-! SUPPORT. The host's side of a decode (40_input_adapters R100 to R107): the adapters element by element, the order of
the checks of DECODE and its packed words, and `decode(x)` as the accesses it makes. -/

namespace Sys2Proof.Machine

open Sys2Proof.Claims

/-! ### The adapters -/

theorem testBit_bitsValue (seq : List Bool) (i : Nat) : (bitsValue seq).testBit i = seq.getD i false := by
  induction seq generalizing i with
  | nil => simp [bitsValue]
  | cons b bs ih =>
    cases i with
    | zero => cases b <;> simp [bitsValue]
    | succ i =>
      have hhalf : (b.toNat + 2 * bitsValue bs) / 2 = bitsValue bs := by have := boolNat_le_one b; omega
      rw [bitsValue, Nat.testBit_succ, hhalf, ih, List.getD_cons_succ]

/-- Bit i of the canonical telegram is element i (40_input_adapters R100). -/
theorem getLsbD_canonical (seq : List Bool) {i : Nat} (h : i < 59) : (canonical seq).getLsbD i = seq.getD i false := by
  rw [canonical, BitVec.getLsbD_ofNat, testBit_bitsValue, decide_eq_true h, Bool.true_and]

theorem normBool_of_length {b : List Bool} (h : b.length = 59) : normBool b = .ok (canonical b) :=
  if_neg (not_not.2 h)

theorem normInt_of_length {k : List Int} (h : k.length = 59) :
    normInt k = .ok (canonical (k.map fun n => decide (n = 1))) :=
  if_neg (not_not.2 h)

theorem normStr_of_length {γ : Type} [DecidableEq γ] (zero one : γ) {s : List γ} (h : s.length = 59) :
    normStr zero one s = .ok (canonical (s.map fun c => decide (c = one))) :=
  if_pos h

/-- A string one short stands for the string with `zero` before it (40_input_adapters R102). -/
theorem normStr_of_length_58 {γ : Type} [DecidableEq γ] (zero one : γ) {s : List γ} (h : s.length = 58) :
    normStr zero one s = normStr zero one (zero :: s) := by
  rw [normStr_of_length zero one (List.length_cons.trans (congrArg Nat.succ h)), normStr, if_neg (by omega), if_pos h]

/-- Testing each element for the one that counts as 1 gives back the pattern the elements denote. -/
theorem map_decide_eq_of_pattern {α : Type} [DecidableEq α] {x : α} {l : List α} {b : List Bool}
    (hlen : l.length = b.length) (h : ∀ i < b.length, b[i]? = some true ↔ l[i]? = some x) :
    (l.map fun a => decide (a = x)) = b := by
  refine List.ext_getElem (by rw [List.length_map, hlen]) fun i hl hb => ?_
  have hi := h i hb
  rw [List.getElem?_eq_getElem hb, List.getElem?_eq_getElem (hlen ▸ hb), Option.some_inj, Option.some_inj] at hi
  rw [List.getElem_map, Bool.eq_iff_iff, decide_eq_true_iff, hi]

/-- An adapter refuses for the length alone (40_input_adapters R104). -/
theorem normInput_error {γ : Type} [DecidableEq γ] {zero one : γ} {x : ExternalForm γ} {e : ErrorKind}
    (h : normInput zero one x = .error e) : e = .invalidLength := by
  cases x with
  | bools seq =>
    rw [normInput, normBool] at h
    split_ifs at h
    exact (Except.error.inj h).symm
  | str cs =>
    rw [normInput, normStr] at h
    split_ifs at h
    exact (Except.error.inj h).symm
  | ints seq =>
    rw [normInput, normInt] at h
    split_ifs at h
    exact (Except.error.inj h).symm

/-- The host's `decode` sees its input through the adapter only. -/
theorem hostDecode_congr {γ : Type} [DecidableEq γ] {zero one : γ} {x y : ExternalForm γ}
    (h : normInput zero one x = normInput zero one y) (s : State) :
    hostDecode zero one x s = hostDecode zero one y s := by
  rw [hostDecode, hostDecode, h]

theorem hostDecode_of_norm_error {γ : Type} [DecidableEq γ] {zero one : γ} {x : ExternalForm γ} {e : ErrorKind}
    (h : normInput zero one x = .error e) (s : State) : hostDecode zero one x s = .next (s, .error e) := by
  rw [hostDecode, h]

/-! ### The fields by weights, and the packed words -/

theorem groupValue_eq_weights (t : Telegram) (lo hi : Nat) : groupValue t lo hi =
    (groupBit t lo hi 0).toNat + 2 * (groupBit t lo hi 1).toNat + 4 * (groupBit t lo hi 2).toNat +
      8 * (groupBit t lo hi 3).toNat := by
  rw [groupValue, nib]; omega

theorem extract_minute (t : Telegram) : (extract t).minute = minuteOf t := by
  simp [extract, twoDigits, groupValue_eq_weights, groupBit, bitAt, minuteOf, tb]

theorem extract_hour (t : Telegram) : (extract t).hour = hourOf t := by
  simp [extract, twoDigits, groupValue_eq_weights, groupBit, bitAt, hourOf, tb]

theorem extract_day (t : Telegram) : (extract t).day = dayOf t := by
  simp [extract, twoDigits, groupValue_eq_weights, groupBit, bitAt, dayOf, tb]

theorem extract_weekday (t : Telegram) : (extract t).weekday = weekdayOf t := by
  simp [extract, groupValue_eq_weights, groupBit, bitAt, weekdayOf, tb]

theorem extract_month (t : Telegram) : (extract t).month = monthOf t := by
  simp [extract, twoDigits, groupValue_eq_weights, groupBit, bitAt, monthOf, tb]

theorem extract_year (t : Telegram) : (extract t).year = yearOf t := by
  simp [extract, twoDigits, groupValue_eq_weights, groupBit, bitAt, yearOf, tb]

/-- SUMMER in 8-bit two's complement is the value modulo 256 (10_state R29). -/
theorem time_extract_summer_toNat (t : Telegram) :
    (extract t).time.summer.toNat = (2 * tb t 17 + tb t 18 + 255) % 256 := by
  have hsummer : (extract t).summer = 2 * (tb t 17 : Int) + tb t 18 - 1 := by
    simp [extract, summerOf, nib, bitAt, tb]
  rw [Fields.time, hsummer, BitVec.toNat_ofInt]
  omega

/-- The TIME word that a success commits (45_decode_and_control R210 step 9). -/
theorem time_extract_word (t : Telegram) : (extract t).time.word = timeOf t := by
  obtain ⟨hminute, hhour, -⟩ := time_extract_exact t
  have hsummer := time_extract_summer_toNat t
  have hant : (extract t).time.ant.toNat = tb t 15 := rfl
  have htchg : (extract t).time.tchg.toNat = tb t 16 := rfl
  rw [extract_minute] at hminute
  rw [extract_hour] at hhour
  apply BitVec.eq_of_toNat_eq
  have hlt := (extract t).time.word.isLt
  simp only [TimeReg.word, toNat_append_add, BitVec.toNat_ofBool, BitVec.toNat_ofNat, hminute, hhour,
    hsummer, hant, htchg, timeOf] at hlt ⊢
  omega

/-- The DATE word that a success commits (45_decode_and_control R210 step 9). -/
theorem date_extract_word (t : Telegram) : (extract t).date.word = dateOf t := by
  obtain ⟨hday, hwday, hmonth, hyear⟩ := date_extract_exact t
  rw [extract_day] at hday
  rw [extract_weekday] at hwday
  rw [extract_month] at hmonth
  rw [extract_year] at hyear
  apply BitVec.eq_of_toNat_eq
  have hlt := (extract t).date.word.isLt
  simp only [DateReg.word, toNat_append_add, BitVec.toNat_ofNat, hday, hwday, hmonth, hyear, dateOf] at hlt ⊢
  omega

/-! ### The order of the checks -/

theorem bitAt_eq_decide (t : Telegram) (i : Nat) : bitAt t i = decide (tb t i = 1) := by
  rw [tb, bitAt]; cases t.getLsbD i <;> rfl

theorem not_bitAt_eq_decide (t : Telegram) (i : Nat) : (!bitAt t i) = decide (tb t i = 0) := by
  rw [tb, bitAt]; cases t.getLsbD i <;> rfl

/-- A group of indices fails its check when the count and the parity bit differ (42_parity R141). -/
theorem not_parityPasses_eq_decide (t : Telegram) {s e : Nat} (h : s ≤ e) (p : Nat) :
    (!parityPasses t s e p) = decide (popcount t s e % 2 ≠ tb t p) := by
  rw [parityPasses, parityOf_range t h, onesFrom_eq_countP, beq_eq_decide, ← decide_not]
  exact decide_eq_decide.2 ne_comm

/-- The first of a list of checks: its own cause when it fails, else that of the first failing check behind it. -/
theorem find?_cons_map_cause (failed : Bool) (c : Cause) (rest : List (Bool × Cause)) :
    ((((failed, c) :: rest).find? fun p => p.1).map fun p => p.2) =
      if failed then some c else (rest.find? fun p => p.1).map fun p => p.2 := by
  cases failed <;> rfl

/-- The list of checks as DECODE makes them: frame bits, parity groups, then the range validator. -/
theorem firstFailure_eq_ite (t : Telegram) : firstFailure t =
    if bitAt t 0 then some .frameB0
    else if !bitAt t 20 then some .frameB20
    else if !parityPasses t 21 27 28 then some .parMin
    else if !parityPasses t 29 34 35 then some .parHour
    else if !parityPasses t 36 57 58 then some .parDate
    else rangeCheck (extract t).minute (extract t).hour (extract t).day (extract t).weekday (extract t).month := by
  rw [bitAt_eq_decide t 0, not_bitAt_eq_decide, not_parityPasses_eq_decide t (show 21 ≤ 27 by decide),
    not_parityPasses_eq_decide t (show 29 ≤ 34 by decide), not_parityPasses_eq_decide t (show 36 ≤ 57 by decide),
    extract_minute, extract_hour, extract_day, extract_weekday, extract_month, firstFailure, failedChecks]
  simp only [find?_cons_map_cause, List.find?_nil, Option.map_none, rangeCheck, gt_iff_lt, decide_eq_true_eq]

/-- The outcome of DECODE is the first failing check, or the extracted fields (45_decode_and_control R210, R211). -/
theorem decodeFn_eq_elim_firstFailure (t : Telegram) :
    decodeFn t = (firstFailure t).elim (.ok (extract t)) .error := by
  rw [decodeFn, firstFailure_eq_ite]
  split_ifs
  case neg => cases rangeCheck _ _ _ _ _ <;> rfl
  all_goals rfl

theorem decodeFn_of_firstFailure_none {t : Telegram} (h : firstFailure t = none) : decodeFn t = .ok (extract t) := by
  rw [decodeFn_eq_elim_firstFailure, h, Option.elim_none]

theorem decodeFn_of_firstFailure_some {t : Telegram} {c : Cause} (h : firstFailure t = some c) :
    decodeFn t = .error c := by
  rw [decodeFn_eq_elim_firstFailure, h, Option.elim_some]

/-- DECODE fails with a cause of one of the three kinds the source has (60_exceptions R243). -/
theorem decodeFn_error_kind {t : Telegram} {c : Cause} (h : decodeFn t = .error c) :
    c.kind = .framing ∨ c.kind = .parity ∨ c.kind = .range := by
  obtain rfl | rfl | rfl | rfl | rfl | hrange := decodeFn_error h
  · exact .inl rfl
  · exact .inl rfl
  · exact .inr (.inl rfl)
  · exact .inr (.inl rfl)
  · exact .inr (.inl rfl)
  · obtain ⟨rfl, -⟩ | ⟨rfl, -⟩ | ⟨rfl, -⟩ | ⟨rfl, -⟩ | ⟨rfl, -⟩ := rangeCheck_some hrange
    all_goals exact .inr (.inr rfl)

/-! ### The host's procedures -/

theorem statusWord_getLsbD_zero (st : Status) : st.word.getLsbD 0 = st.ok := by
  rw [Status.word, BitVec.getLsbD_append]
  cases st.ok <;> rfl

theorem statusWord_extract_kind (st : Status) : st.word.extractLsb' 1 3 = st.kind.code :=
  (BitVec.extractLsb'_append_eq_of_le (by decide)).trans BitVec.extractLsb'_append_eq_right

/-- The error of the source that a kind of cause stands for (40_input_adapters R105). -/
theorem kindOf_code {k : Kind} (h : k = .framing ∨ k = .parity ∨ k = .range) :
    kindOf k.code = if k = .framing then .framingError else if k = .parity then .parityError else .rangeError := by
  obtain rfl | rfl | rfl := h <;> rfl

theorem hostWrite_eq {s : State} (hreset : s.resetAsserted = false) (r : RegName) (v : Word) :
    hostWrite r v s = regWrite r v s :=
  perform_write hreset r v

theorem hostRead_eq {s : State} (hreset : s.resetAsserted = false) (r : RegName) :
    hostRead r s = .next (recordRead (regRead s r) s, regRead s r) := by
  simp [hostRead, perform_read hreset, andThen]

/-- `ldtel` by the host replaces TEL and nothing else (30_encoding R79). -/
theorem hostLoadTelegram_eq {s : State} (hreset : s.resetAsserted = false) (bits : Telegram) :
    hostLoadTelegram bits s = .next { s with tel := bits } := by
  rw [hostLoadTelegram, hostWrite_eq hreset]
  change hostWrite .telHi _ (writeTelLo _ s) = _
  rw [hostWrite_eq (by exact hreset), regWrite, writeTelHi_writeTelLo_eq s (fun _ => getLsbD_telLoWord bits)
    fun _ hj => getLsbD_telHiWord bits (hj.trans (by decide))]

/-- `lastResult` reads TIME and DATE (40_input_adapters R106). -/
theorem lastResult_eq {s : State} (hreset : s.resetAsserted = false) : lastResult s =
    .next (recordRead (regRead s .date) (recordRead (regRead s .time) s), ⟨regRead s .time, regRead s .date⟩) := by
  rw [lastResult, hostRead_eq hreset]
  change andThen (hostRead .date (recordRead _ s)) _ = _
  rw [hostRead_eq (by exact hreset)]
  rfl

theorem hostWrite_cmd_decode {s : State} (hreset : s.resetAsserted = false) :
    hostWrite .cmd (encode .decode) s = exec .decode s :=
  hostWrite_eq hreset .cmd _

section HostDecode

variable {γ : Type} [DecidableEq γ] {zero one : γ} {x : ExternalForm γ} {bits : Telegram} {s : State}

/-- The host's `decode` runs DECODE on the input's telegram, reads STATUS, and then either the result or KIND
(40_input_adapters R105). -/
theorem hostDecode_of_exec {t : State}
    (hnorm : normInput zero one x = .ok bits) (hreset : s.resetAsserted = false)
    (hexec : exec .decode { s with tel := bits } = .next t) (hrun : t.resetAsserted = false) :
    hostDecode zero one x s =
      if t.status.ok then
        andThen (lastResult (recordRead (regRead t .status) t)) fun b => .next (b.1, .ok b.2)
      else .next (recordRead (regRead t .status) t, .error (kindOf t.status.kind.code)) := by
  have hload := hostLoadTelegram_eq hreset bits
  have hcmd := (hostWrite_cmd_decode (s := { s with tel := bits }) hreset).trans hexec
  have hok : (regRead t .status).getLsbD 0 = t.status.ok := statusWord_getLsbD_zero t.status
  have hkind : (regRead t .status).extractLsb' 1 3 = t.status.kind.code := statusWord_extract_kind t.status
  simp only [hostDecode, hnorm, hload, hcmd, hostRead_eq hrun, andThen, hok, hkind]

/-- With no failing check the host gets the result, which stands in the slot (40_input_adapters R105). -/
theorem hostDecode_of_firstFailure_none (hnorm : normInput zero one x = .ok bits)
    (hreset : s.resetAsserted = false) (hnone : firstFailure bits = none) : ∃ log, hostDecode zero one x s =
      .next ({ succeed (commit (extract bits) { s with tel := bits }) with readLog := log },
        .ok ⟨timeOf bits, dateOf bits⟩) := by
  have hexec := exec_decode_of_ok (s := { s with tel := bits }) (decodeFn_of_firstFailure_none hnone)
  rw [hostDecode_of_exec hnorm hreset hexec hreset, if_pos (show (succeed _).status.ok = true from rfl),
    lastResult_eq (by exact hreset), ← time_extract_word, ← date_extract_word]
  exact ⟨_, rfl⟩

/-- With a failing check the host gets the code of its kind, and the slot stays (40_input_adapters R105). -/
theorem hostDecode_of_firstFailure_some {c : Cause} (hnorm : normInput zero one x = .ok bits)
    (hreset : s.resetAsserted = false) (hsome : firstFailure bits = some c) : ∃ log, hostDecode zero one x s =
      .next ({ fail c.kind c { s with tel := bits } with readLog := log }, .error (kindOf c.kind.code)) := by
  have hexec := exec_decode_of_error (s := { s with tel := bits }) (decodeFn_of_firstFailure_some hsome)
  exact ⟨_, hostDecode_of_exec hnorm hreset hexec hreset⟩

end HostDecode

end Sys2Proof.Machine

namespace Sys2Proof.Claims

open Sys2Proof.Machine

/-- Settles O49: the tests of the integer and the string adapter give back the boolean pattern, and `decode` sees no more
of its input than its bits. -/
theorem adaptersAgree : Obligations.AdaptersAgree := by
  intro γ _ zero one _
  refine ⟨fun b k s hb hk hs hpattern => ?_, fun s => normStr_of_length_58 zero one,
    fun s h => normStr_of_length_ne zero one (by omega) (by omega)⟩
  have hbool : normBool b = .ok (canonical b) := normBool_of_length hb
  have hint : normInt k = .ok (canonical b) := by
    rw [normInt_of_length hk, map_decide_eq_of_pattern (hk.trans hb.symm) fun i hi => (hpattern i (hb ▸ hi)).1]
  have hstr : normStr zero one s = .ok (canonical b) := by
    rw [normStr_of_length zero one hs,
      map_decide_eq_of_pattern (hs.trans hb.symm) fun i hi => (hpattern i (hb ▸ hi)).2]
  refine ⟨canonical b, hbool, hint, hstr, fun i hi => ?_, fun st => ⟨?_, ?_⟩⟩
  · rw [getLsbD_canonical b hi, List.getD_eq_getElem?_getD, List.getElem?_eq_getElem (hb ▸ hi), Option.getD_some,
      Option.some_inj]
  · exact hostDecode_congr (show normInput _ _ (.bools b) = normInput _ _ (.ints k) from hbool.trans hint.symm) st
  · exact hostDecode_congr (show normInput _ _ (.bools b) = normInput _ _ (.str s) from hbool.trans hstr.symm) st

/-- Settles O50, by the first failing check of the input's telegram. -/
theorem hostDecodeReturnsTheTelegramsResult : Obligations.HostDecodeReturnsTheTelegramsResult := by
  intro γ _ zero one x s
  refine ⟨fun bits hnorm hreset => ?_, fun e herror => ?_⟩
  · cases hfirst : firstFailure bits with
    | none =>
      obtain ⟨log, hdecode⟩ := hostDecode_of_firstFailure_none hnorm hreset hfirst
      exact ⟨_, _, hdecode, rfl, rfl, time_extract_word bits, date_extract_word bits⟩
    | some c =>
      obtain ⟨log, hdecode⟩ := hostDecode_of_firstFailure_some hnorm hreset hfirst
      have hkind := decodeFn_error_kind (decodeFn_of_firstFailure_some hfirst)
      exact ⟨_, _, hdecode, rfl, congrArg _ (kindOf_code hkind), rfl, rfl⟩
  · obtain rfl := normInput_error herror
    exact ⟨rfl, hostDecode_of_norm_error herror s⟩

end Sys2Proof.Claims
end

section
/-! SUPPORT. BCD groups and the BCD2 command (41_bcd R120 to R125): a group as a field of the telegram, the result in AUX, and the
BCD2 word as the decoder and the assembler see it. -/

namespace Sys2Proof

/-- The opcode rows are disjoint: a word that one row matches is matched by no other. -/
theorem not_hits_of_ne {r q : OpcodeRow} (hr : r ∈ opcodeTable) (hq : q ∈ opcodeTable) (hne : r ≠ q) {v : Word}
    (h : r.hits v = true) : ¬ q.hits v = true := fun hqv =>
  hne (eq_of_pattern_opcode_eq r hr q hq ((opField_of_hits hr h).trans (opField_of_hits hq hqv).symm))

theorem decode_of_hits_bcd2 {v : Word} (h : rowBcd2.hits v = true) :
    decode v = .ok (.bcd2 (bhField v) (blField v)) := by
  have hnop : ¬ rowNop.hits v = true := not_hits_of_ne (r := rowBcd2) (by decide) (by decide) (by decide) h
  have hdecode : ¬ rowDecode.hits v = true := not_hits_of_ne (r := rowBcd2) (by decide) (by decide) (by decide) h
  rw [decode, if_neg hnop, if_neg hdecode, if_pos h]

theorem hits_encode_bcd2 (bh bl : Nibble) : rowBcd2.hits (encode (.bcd2 bh bl)) = true := by
  obtain ⟨hbh, hbl⟩ := fields_encode_bcd2 bh bl
  rw [hits_bcd2, hbh, hbl]

/-- Bits 15:8 of a BCD2 word are its two nibbles, the tens above the ones (30_encoding R72). -/
theorem extract_nibbles_encode_bcd2 (bh bl : Nibble) : (encode (.bcd2 bh bl)).extractLsb' 8 8 = bh ++ bl := by
  refine BitVec.eq_of_getLsbD_eq fun i hi => ?_
  have hones : 8 + i < 12 ↔ i < 4 := by omega
  have htens : 8 + i - 12 = i - 4 := by omega
  rw [BitVec.getLsbD_extractLsb', decide_eq_true hi, Bool.true_and, getLsbD_encode_bcd2, if_neg (by omega),
    if_neg (by omega), Nat.add_sub_cancel_left, htens, BitVec.getLsbD_append]
  simp only [hones]

/-- The number of two nibbles cut from a byte is the byte. -/
theorem toNat_append_nibbles {n : Nat} (h : n ≤ 0xFF) :
    (BitVec.ofNat 4 (n / 16) ++ BitVec.ofNat 4 (n % 16)).toNat = n := by
  rw [toNat_append_add, BitVec.toNat_ofNat, BitVec.toNat_ofNat]
  omega

/-- The word the assembler builds from an 8-bit operand is the BCD2 word of the operand's two nibbles (30_encoding R78). -/
theorem bcd2_or_shift_eq_encode {n : Nat} (h : n ≤ 0xFF) : 0x00000002#32 ||| BitVec.ofNat 32 n <<< 8 =
    encode (.bcd2 (BitVec.ofNat 4 (n / 16)) (BitVec.ofNat 4 (n % 16))) := by
  have hor : 2 ||| n <<< 8 = n * 2 ^ 8 + 2 := by
    rw [Nat.or_comm, ← Nat.shiftLeft_add_eq_or_of_lt (by decide), Nat.shiftLeft_eq]
  have hn : (BitVec.ofNat 32 n <<< 8).toNat = n <<< 8 := by
    rw [BitVec.toNat_shiftLeft, BitVec.toNat_ofNat, Nat.shiftLeft_eq, Nat.shiftLeft_eq]
    omega
  apply BitVec.eq_of_toNat_eq
  rw [BitVec.toNat_or, hn, show (0x00000002#32).toNat = 2 from rfl, hor]
  simp only [encode, toNat_append_add, BitVec.toNat_ofNat]
  omega

end Sys2Proof

namespace Sys2Proof.Machine

/-- The bits of a group are the bits of that field of the telegram, both 0 above the group's width (41_bcd R121). -/
theorem groupBit_eq_getLsbD_extract (t : Telegram) (lo : Nat) {w : Nat} (hw : 1 ≤ w) (k : Nat) :
    groupBit t lo (lo + w - 1) k = (t.extractLsb' lo w).getLsbD k := by
  have hk : lo + k ≤ lo + w - 1 ↔ k < w := by omega
  rw [groupBit, BitVec.getLsbD_extractLsb', decide_eq_decide.2 hk, bitAt]

/-- A group whose bits are those of a nibble has the nibble's value. -/
theorem groupValue_eq_toNat {t : Telegram} {lo hi : Nat} {b : Nibble}
    (h : ∀ k < 4, groupBit t lo hi k = b.getLsbD k) : groupValue t lo hi = b.toNat := by
  rw [groupValue, h 0 (by decide), h 1 (by decide), h 2 (by decide), h 3 (by decide), ← nibbleValue_eq, nibbleValue]

/-- A group of up to four bits is the unsigned value of its field: extended to a nibble the field keeps its value
(41_bcd R121, R122). -/
theorem groupValue_eq_extract_toNat (t : Telegram) (lo : Nat) {w : Nat} (hpos : 1 ≤ w) (hle : w ≤ 4) :
    groupValue t lo (lo + w - 1) = (t.extractLsb' lo w).toNat := by
  rw [← BitVec.toNat_setWidth_of_le hle]
  refine groupValue_eq_toNat fun k hk => ?_
  rw [groupBit_eq_getLsbD_extract t lo hpos, BitVec.getLsbD_setWidth, decide_eq_true hk, Bool.true_and]

/-- A group of four telegram bits that hold a nibble, least significant first. -/
theorem groupValue_of_bits {t : Telegram} {lo : Nat} {b : Nibble} (h : ∀ k < 4, t.getLsbD (lo + k) = b.getLsbD k) :
    groupValue t lo (lo + 3) = b.toNat :=
  groupValue_eq_toNat fun k hk => (groupBit_inside t (by omega)).trans (h k hk)

/-- BCD2 completes in every state, with ones + 10 * tens in AUX (41_bcd R124). -/
theorem exec_bcd2 (bh bl : Nibble) (s : State) :
    exec (.bcd2 bh bl) s = .next (succeed (writeAux (bl.toNat + 10 * bh.toNat) s)) := by
  rw [← nibbleValue_eq bl, ← nibbleValue_eq bh]
  rfl

/-- AUX reads back a result that fits its 8 bits (10_state R32). -/
theorem regRead_aux_succeed_writeAux {x : Nat} (h : x < 2 ^ 8) (s : State) :
    (regRead (succeed (writeAux x s)) .aux).toNat = x := by
  rw [regRead, succeed_aux, writeAux_aux, BitVec.toNat_setWidth_of_le (by decide), toNat_ofNat_of_lt h]

/-- Two nibbles give at most 165, which AUX holds without loss (41_bcd R123). -/
theorem regRead_aux_bcd2 (bh bl : Nibble) (s : State) :
    (regRead (succeed (writeAux (bl.toNat + 10 * bh.toNat) s)) .aux).toNat = bl.toNat + 10 * bh.toNat :=
  regRead_aux_succeed_writeAux (by have := bh.isLt; have := bl.isLt; omega) s

theorem assemble_bcd2 (base : Nat) {n : Nat} (h : n ≤ 0xFF) : assemble base (.bcd2 n) =
    .ok [.write 32 (base + 8) (encode (.bcd2 (BitVec.ofNat 4 (n / 16)) (BitVec.ofNat 4 (n % 16))))] := by
  rw [assemble, if_neg (by omega), bcd2_or_shift_eq_encode h]
  rfl

end Sys2Proof.Machine

namespace Sys2Proof.Claims

open Sys2Proof.Machine

/-- Settles O7: the result of two nibbles fits AUX, a word that hits the BCD2 row hits no row before it, one of opcode 2 with a
reserved bit hits none, and the assembler's word is the BCD2 word of the operand's nibbles. -/
theorem bcd2WritesBinaryValue : Obligations.Bcd2WritesBinaryValue := by
  refine ⟨fun bh bl s => ⟨_, exec_bcd2 bh bl s, rfl, regRead_aux_bcd2 bh bl s⟩, fun v hop => ⟨fun hmask => ?_, ?_⟩,
    fun base imm8 himm => ⟨_, assemble_bcd2 base himm, ?_, ?_⟩⟩
  · exact decode_of_hits_bcd2 (beq_iff_eq.2 hmask)
  · intro hreserved s
    obtain ⟨hillegal, -⟩ := illegalWordsFailAndChangeNothingElse v
    exact execute_of_hits_none (hillegal.2 (.inr (.inr (.inl ⟨hop, hreserved⟩)))) s
  · exact beq_iff_eq.1 (hits_encode_bcd2 _ _)
  · rw [extract_nibbles_encode_bcd2, toNat_append_nibbles himm]

/-- Settles O8: both year groups hold the values of the nibbles, and BCD2 computes the same two-digit value of them. -/
theorem bcd2EqualsYearField : Obligations.Bcd2EqualsYearField := by
  intro tel bh bl s hones htens
  have hyear : (extract tel).year = bl.toNat + 10 * bh.toNat := by
    rw [← groupValue_of_bits hones, ← groupValue_of_bits htens]
    rfl
  exact ⟨rfl, _, exec_bcd2 bh bl s, (regRead_aux_bcd2 bh bl s).trans hyear.symm⟩

/-- Settles O20: the group's four bits are those of the field extended to a nibble. -/
theorem groupValueIsLsbFirst : Obligations.GroupValueIsLsbFirst :=
  fun t lo _ hpos hle => groupValue_eq_extract_toNat t lo hpos hle

end Sys2Proof.Claims
end

section
/-! SUPPORT. The parity function and the PARITY command (42_parity R140 to R144): the parity as a count modulo 2, what a flipped bit
does to it, and the PARITY word as the decoder and the assembler see it. -/

namespace Sys2Proof

theorem decode_of_hits_parity {v : Word} (h : rowParity.hits v = true) :
    decode v = .ok (.parity (sField v) (eField v)) := by
  have hother {q : OpcodeRow} (hq : q ∈ opcodeTable) (hne : rowParity ≠ q) : ¬ q.hits v = true :=
    not_hits_of_ne (by decide) hq hne h
  rw [decode, if_neg (hother (q := rowNop) (by decide) (by decide)),
    if_neg (hother (q := rowDecode) (by decide) (by decide)), if_neg (hother (q := rowBcd2) (by decide) (by decide)),
    if_pos h]

theorem hits_encode_parity {a b : Nat} (ha : a ≤ 63) (hb : b ≤ 63) : rowParity.hits (encode (.parity a b)) = true := by
  obtain ⟨hs, he⟩ := fields_encode_parity ha hb
  rw [hits_parity, hs, he]

/-- A number is shifted before or after it becomes a word. -/
theorem shiftLeft_ofNat (w n k : Nat) : BitVec.ofNat w n <<< k = BitVec.ofNat w (n <<< k) := by
  apply BitVec.eq_of_toNat_eq
  rw [BitVec.toNat_shiftLeft, BitVec.toNat_ofNat, BitVec.toNat_ofNat, Nat.shiftLeft_eq, Nat.shiftLeft_eq, Nat.mod_mul_mod]

/-- The word the assembler builds from two indices is their PARITY word (30_encoding R78). -/
theorem parity_or_shift_eq_encode {a b : Nat} (ha : a ≤ 63) (hb : b ≤ 63) :
    0x00000003#32 ||| BitVec.ofNat 32 a <<< 8 ||| BitVec.ofNat 32 b <<< 16 = encode (.parity a b) := by
  have hstart : 3 ||| a <<< 8 = a * 2 ^ 8 + 3 := by
    rw [Nat.or_comm, ← Nat.shiftLeft_add_eq_or_of_lt (by decide), Nat.shiftLeft_eq]
  have hor : 3 ||| a <<< 8 ||| b <<< 16 = b * 2 ^ 16 + (a * 2 ^ 8 + 3) := by
    rw [hstart, Nat.or_comm, ← Nat.shiftLeft_add_eq_or_of_lt (by omega), Nat.shiftLeft_eq]
  apply BitVec.eq_of_toNat_eq
  rw [shiftLeft_ofNat, shiftLeft_ofNat, ← BitVec.ofNat_or, ← BitVec.ofNat_or, hor]
  simp only [encode, toNat_append_add, BitVec.toNat_ofNat]
  omega

end Sys2Proof

namespace Sys2Proof.Machine

open Sys2Proof.Claims

/-! ### The command -/

/-- An empty range gives 0, whatever its end: the order of the indices is tested first (42_parity R142). -/
theorem exec_parity_of_gt {a b : Nat} (h : a > b) (s : State) :
    exec (.parity a b) s = .next (succeed (writeAux 0 s)) :=
  if_pos h

/-- A range that is not empty must end within the telegram (42_parity R143). -/
theorem exec_parity_of_beyond {a b : Nat} (h : a ≤ b) (hb : b > 58) (s : State) :
    exec (.parity a b) s = .next (fail .illegal .illRange s) :=
  (if_neg (Nat.not_lt.2 h)).trans (if_pos hb)

theorem exec_parity_of_le {a b : Nat} (h : a ≤ b) (hb : b ≤ 58) (s : State) :
    exec (.parity a b) s = .next (succeed (writeAux (parityOf s.tel a b) s)) :=
  (if_neg (Nat.not_lt.2 h)).trans (if_neg (Nat.not_lt.2 hb))

theorem assemble_parity (base : Nat) {a b : Nat} (ha : a ≤ 63) (hb : b ≤ 63) :
    assemble base (.parity a b) = .ok [.write 32 (base + 8) (encode (.parity a b))] := by
  rw [assemble, if_neg (by omega), parity_or_shift_eq_encode ha hb]
  rfl

/-! ### The parity as a count -/

/-- An empty range counts 0, so the parity is the count modulo 2 without a case (42_parity R140). -/
theorem parityOf_eq_onesFrom_mod_two (t : Telegram) (s e : Nat) : parityOf t s e = onesFrom t s (e + 1 - s) % 2 := by
  rcases Nat.lt_or_ge e s with h | h
  · rw [parityOf_empty t h, Nat.sub_eq_zero_of_le h, onesFrom]
  · exact parityOf_range t h

theorem onesFrom_eq_popcount (t : Telegram) (s e : Nat) : onesFrom t s (e + 1 - s) = popcount t s e :=
  onesFrom_eq_countP t s (e + 1 - s)

theorem parityOf_eq_popcount_mod_two (t : Telegram) (s e : Nat) : parityOf t s e = popcount t s e % 2 := by
  rw [parityOf_eq_onesFrom_mod_two, onesFrom_eq_popcount]

/-- A range of one index has the parity of its bit (42_parity R140). -/
theorem parityOf_self (t : Telegram) (s : Nat) : parityOf t s s = tb t s := by
  have hle : tb t s ≤ 1 := boolNat_le_one _
  have hone : onesFrom t s 1 = tb t s := Nat.zero_add _
  rw [parityOf_range t le_rfl, Nat.add_sub_cancel_left, hone, Nat.mod_eq_of_lt (Nat.lt_succ_of_le hle)]

/-! ### Flipped bits -/

theorem toNat_not (b : Bool) : (!b).toNat = 1 - b.toNat := by cases b <;> rfl

/-- Of two bits, changing one turns around whether they are equal. -/
theorem one_sub_beq_eq_not {x y : Nat} (hx : x ≤ 1) (hy : y ≤ 1) : (1 - x == y) = !(x == y) := by
  interval_cases x <;> interval_cases y <;> rfl

theorem bitAt_flipBit_self (t : Telegram) {i : Nat} (h : i ≤ 58) : bitAt (flipBit t i) i = !bitAt t i := by
  have hlt : i < 59 := Nat.lt_succ_of_le h
  simp [bitAt, flipBit, hlt]

theorem bitAt_flipBit_of_ne (t : Telegram) {i j : Nat} (h : i ≠ j) : bitAt (flipBit t i) j = bitAt t j := by
  simp [bitAt, flipBit, BitVec.getLsbD_twoPow, h]

/-- A flipped bit outside the range is not counted. -/
theorem onesFrom_flipBit_of_outside (t : Telegram) {i lo n : Nat} (h : ∀ k < n, i ≠ lo + k) :
    onesFrom (flipBit t i) lo n = onesFrom t lo n :=
  onesFrom_congr fun k hk => bitAt_flipBit_of_ne t (h k hk)

/-- A flipped bit inside the range makes an even count odd and an odd count even. -/
theorem onesFrom_flipBit_mod_two (t : Telegram) {i lo n : Nat} (hi : i ≤ 58) (hlo : lo ≤ i) (hn : i < lo + n) :
    onesFrom (flipBit t i) lo n % 2 = (onesFrom t lo n + 1) % 2 := by
  induction n with
  | zero => omega
  | succ n ih =>
    rw [onesFrom, onesFrom]
    rcases Nat.lt_or_ge i (lo + n) with hlt | hge
    · have hbelow := ih hlt
      rw [bitAt_flipBit_of_ne t hlt.ne]
      omega
    · obtain rfl : i = lo + n := by omega
      have hbit := boolNat_le_one (bitAt t (lo + n))
      rw [onesFrom_flipBit_of_outside t fun k hk => by omega, bitAt_flipBit_self t hi, toNat_not]
      omega

/-- Flipping a bit of the range changes the parity. -/
theorem parityOf_flipBit_of_mem (t : Telegram) {s e i : Nat} (he : e ≤ 58) (hs : s ≤ i) (hi : i ≤ e) :
    parityOf (flipBit t i) s e = 1 - parityOf t s e := by
  have hflip := onesFrom_flipBit_mod_two t (n := e + 1 - s) (hi.trans he) hs (by omega)
  rw [parityOf_eq_onesFrom_mod_two, parityOf_eq_onesFrom_mod_two, hflip]
  omega

theorem parityOf_flipBit_of_not_mem (t : Telegram) {s e i : Nat} (h : ¬(s ≤ i ∧ i ≤ e)) :
    parityOf (flipBit t i) s e = parityOf t s e := by
  have hcount := onesFrom_flipBit_of_outside t (i := i) (lo := s) (n := e + 1 - s) fun k hk => by omega
  rw [parityOf_eq_onesFrom_mod_two, parityOf_eq_onesFrom_mod_two, hcount]

/-- Flipping a bit of a group, or its parity bit, turns the verdict of the check around (42_parity R144). -/
theorem parityPasses_flipBit (t : Telegram) {s e p i : Nat} (he : e ≤ 58) (hp : p ≤ 58) (hout : ¬(s ≤ p ∧ p ≤ e))
    (hi : (s ≤ i ∧ i ≤ e) ∨ i = p) : parityPasses (flipBit t i) s e p = !parityPasses t s e p := by
  have hbit := boolNat_le_one (bitAt t p)
  have hparity := parityOf_le_one t s e
  rcases hi with ⟨hs, hi⟩ | rfl
  · have hne : i ≠ p := by rintro rfl; exact hout ⟨hs, hi⟩
    rw [parityPasses, bitAt_flipBit_of_ne t hne, parityOf_flipBit_of_mem t he hs hi, BEq.comm,
      one_sub_beq_eq_not hparity hbit, BEq.comm, parityPasses]
  · rw [parityPasses, bitAt_flipBit_self t hp, toNat_not, parityOf_flipBit_of_not_mem t hout,
      one_sub_beq_eq_not hbit hparity, parityPasses]

end Sys2Proof.Machine

namespace Sys2Proof.Claims

open Sys2Proof.Machine

/-- Settles O9: the three branches of PARITY, the row and the illegal words of opcode 3, and the assembler's word, which is the
PARITY word of its two indices. -/
theorem parityCommandHasThreeOutcomes : Obligations.ParityCommandHasThreeOutcomes := by
  refine ⟨fun a b s => ⟨fun h => exec_parity_of_gt h s, fun h hb => exec_parity_of_beyond h hb s, fun h hb => ?_⟩,
    fun v hop => ⟨fun hmask => ?_, fun hreserved s => ?_⟩, fun base a b ha hb => ?_⟩
  · rw [exec_parity_of_le h hb, parityOf_eq_popcount_mod_two]
    rfl
  · exact decode_of_hits_parity (beq_iff_eq.2 hmask)
  · obtain ⟨hillegal, -⟩ := illegalWordsFailAndChangeNothingElse v
    exact execute_of_hits_none (hillegal.2 (.inr (.inr (.inr ⟨hop, hreserved⟩)))) s
  · exact ⟨_, assemble_parity base ha hb, beq_iff_eq.1 (hits_encode_parity ha hb), fields_encode_parity ha hb⟩

/-- Settles O25: the model counts bit by bit what `popcount` counts over the list of indices, and a range of one index is its
bit. -/
theorem parityIsPopcountModTwo : Obligations.ParityIsPopcountModTwo := by
  intro t s e
  refine ⟨?_, parityOf_self t s⟩
  rw [parityOf, onesFrom_eq_popcount]

/-- Settles O26: each flip turns the verdict around, so one makes a passing group fail and two cancel. -/
theorem parityDetectsSingleBitErrors : Obligations.ParityDetectsSingleBitErrors := by
  intro t s e p he hp hout
  have hverdict (u : Telegram) {i : Nat} (hi : (s ≤ i ∧ i ≤ e) ∨ i = p) :
      parityPasses (flipBit u i) s e p = !parityPasses u s e p := parityPasses_flipBit u he hp hout hi
  refine ⟨fun i hs hi => ⟨?_, fun hpass => ?_⟩, fun hpass => ?_, fun i j _ hi hj => ?_⟩
  · rw [parityOf_flipBit_of_mem t he hs hi]
    omega
  · rw [hverdict t (.inl ⟨hs, hi⟩), hpass, Bool.not_true]
  · rw [hverdict t (.inr rfl), hpass, Bool.not_true]
  · rw [hverdict _ hj, hverdict t hi, Bool.not_not]

end Sys2Proof.Claims
end

section
/-! SUPPORT. The extractor and the bits it reads (43_field_extraction R160 to R172): DECODE as a function of the telegram outside
the ignored bits, and the two framing checks. -/

namespace Sys2Proof.Machine

open Sys2Proof.Claims

theorem extract_summer (t : Telegram) : (extract t).summer = 2 * (tb t 17 : Int) + (tb t 18 : Int) - 1 := by
  simp [extract, summerOf, nib, bitAt, tb]

/-! ### The bits that DECODE reads -/

theorem groupValue_congr {t u : Telegram} {lo hi : Nat} (h : ∀ i, lo ≤ i → i ≤ hi → bitAt t i = bitAt u i) :
    groupValue t lo hi = groupValue u lo hi := by
  have hbit (k : Nat) : groupBit t lo hi k = groupBit u lo hi k := by
    rcases Nat.lt_or_ge hi (lo + k) with hout | hin
    · rw [groupBit_above t hout, groupBit_above u hout]
    · rw [groupBit_inside t hin, groupBit_inside u hin, h _ (Nat.le_add_right lo k) hin]
  rw [groupValue, groupValue, hbit, hbit, hbit, hbit]

theorem parityOf_congr {t u : Telegram} {s e : Nat} (h : ∀ i, s ≤ i → i ≤ e → bitAt t i = bitAt u i) :
    parityOf t s e = parityOf u s e := by
  have hcount : onesFrom t s (e + 1 - s) = onesFrom u s (e + 1 - s) :=
    onesFrom_congr fun k hk => h (s + k) (Nat.le_add_right s k) (by omega)
  rw [parityOf_eq_onesFrom_mod_two, parityOf_eq_onesFrom_mod_two, hcount]

/-- The telegrams agree in every bit but 1 to 14 and 19, which DECODE ignores (43_field_extraction R161). -/
def AgreeOutsideIgnored (t u : Telegram) : Prop :=
  ∀ i < 59, ¬(1 ≤ i ∧ i ≤ 14) → i ≠ 19 → bitAt t i = bitAt u i

namespace AgreeOutsideIgnored

variable {t u : Telegram} {lo hi : Nat}

/-- All parity groups and all BCD fields lie above the last ignored bit. -/
theorem bitAt_eq (h : AgreeOutsideIgnored t u) {i : Nat} (hlo : 20 ≤ i) (hhi : i ≤ 58) : bitAt t i = bitAt u i :=
  h i (by omega) (by omega) (by omega)

theorem groupValue_eq (h : AgreeOutsideIgnored t u) (hlo : 20 ≤ lo) (hhi : hi ≤ 58) :
    groupValue t lo hi = groupValue u lo hi :=
  groupValue_congr fun _ hl hr => h.bitAt_eq (hlo.trans hl) (hr.trans hhi)

theorem parityPasses_eq (h : AgreeOutsideIgnored t u) {p : Nat} (hlo : 20 ≤ lo) (hhi : hi ≤ 58) (hp : 20 ≤ p)
    (hp' : p ≤ 58) : parityPasses t lo hi p = parityPasses u lo hi p := by
  have hparity : parityOf t lo hi = parityOf u lo hi :=
    parityOf_congr fun _ hl hr => h.bitAt_eq (hlo.trans hl) (hr.trans hhi)
  rw [parityPasses, parityPasses, h.bitAt_eq hp hp', hparity]

theorem extract_eq (h : AgreeOutsideIgnored t u) : extract t = extract u := by
  have hant := h 15 (by decide) (by decide) (by decide)
  have htchg := h 16 (by decide) (by decide) (by decide)
  have hsummer : summerOf t = summerOf u := by
    rw [summerOf, summerOf, h 17 (by decide) (by decide) (by decide), h 18 (by decide) (by decide) (by decide)]
  simp (disch := decide) only [extract, hant, htchg, hsummer, h.groupValue_eq]

/-- The outcome of DECODE is a function of the bits outside the ignored ones (43_field_extraction R161). -/
theorem decodeFn_eq (h : AgreeOutsideIgnored t u) : decodeFn t = decodeFn u := by
  have hstart := h 0 (by decide) (by decide) (by decide)
  have hmarker := h 20 (by decide) (by decide) (by decide)
  simp (disch := decide) only [decodeFn, hstart, hmarker, h.parityPasses_eq, h.extract_eq]

end AgreeOutsideIgnored

/-- DECODE uses TEL for its outcome only: another telegram with the same outcome gives the same state but for TEL. -/
theorem exec_decode_with_tel {s : State} {u : Telegram} (h : decodeFn s.tel = decodeFn u) :
    ∃ t, exec .decode s = .next t ∧ exec .decode { s with tel := u } = .next { t with tel := u } := by
  cases hs : decodeFn s.tel with
  | error c => exact ⟨_, exec_decode_of_error hs, exec_decode_of_error (s := { s with tel := u }) (h.symm.trans hs)⟩
  | ok f => exact ⟨_, exec_decode_of_ok hs, exec_decode_of_ok (s := { s with tel := u }) (h.symm.trans hs)⟩

/-! ### The framing checks -/

theorem decodeFn_of_startBit_set {t : Telegram} (h : bitAt t 0 = true) : decodeFn t = .error .frameB0 := if_pos h

theorem decodeFn_of_marker_missing {t : Telegram} (h0 : bitAt t 0 = false) (h20 : bitAt t 20 = false) :
    decodeFn t = .error .frameB20 := by
  rw [decodeFn, h0, h20]
  rfl

theorem rangeCheck_some_kind {a b c d e : Nat} {x : Cause} (h : rangeCheck a b c d e = some x) : x.kind = .range := by
  obtain ⟨rfl, -⟩ | ⟨rfl, -⟩ | ⟨rfl, -⟩ | ⟨rfl, -⟩ | ⟨rfl, -⟩ := rangeCheck_some h
  all_goals rfl

/-- With both framing bits right, whatever DECODE reports is no framing error. -/
theorem decodeFn_error_kind_ne_framing {t : Telegram} {c : Cause} (h0 : bitAt t 0 = false) (h20 : bitAt t 20 = true)
    (h : decodeFn t = .error c) : c.kind ≠ .framing := by
  rw [decodeFn, h0, h20, if_neg Bool.false_ne_true, if_neg (show ¬(!true) = true by decide)] at h
  split_ifs at h
  case neg =>
    split at h
    · rename_i x hrange
      obtain rfl := Except.error.inj h
      rw [rangeCheck_some_kind hrange]
      decide
    · cases h
  all_goals cases h; decide

/-- DECODE completes, and STATUS names a cause only when the outcome is that cause. -/
theorem exec_decode_cause_ne {s : State} {c : Cause} (hc : c ≠ .none) (h : decodeFn s.tel ≠ .error c) :
    ∃ t, exec .decode s = .next t ∧ t.status.cause ≠ c := by
  cases hs : decodeFn s.tel with
  | error d => exact ⟨_, exec_decode_of_error hs, fun hd => h (hs.trans (congrArg _ hd))⟩
  | ok f => exact ⟨_, exec_decode_of_ok hs, hc.symm⟩

end Sys2Proof.Machine

namespace Sys2Proof.Claims

open Sys2Proof.Machine

/-- Settles O15: the outcome of DECODE is a function of the other bits, and PARITY of one index gives its bit. -/
theorem ignoredBitsDoNotAffectDecode : Obligations.IgnoredBitsDoNotAffectDecode := by
  refine ⟨fun s u hagree => exec_decode_with_tel (AgreeOutsideIgnored.decodeFn_eq hagree), fun s i hi => ?_⟩
  have hbit : tb s.tel i < 2 ^ 8 := (boolNat_le_one _).trans_lt (by decide)
  refine ⟨_, exec_parity_of_le le_rfl (show i ≤ 58 by omega) s, ?_⟩
  rw [parityOf_self, regRead_aux_succeed_writeAux hbit]

/-- Settles O21, field by field. -/
theorem extractReadsTheLayoutTable : Obligations.ExtractReadsTheLayoutTable := fun t =>
  ⟨rfl, rfl, extract_summer t, extract_minute t, extract_hour t, extract_day t, extract_weekday t, extract_month t,
    extract_year t⟩

/-- Settles O16: the check of t[0] is the first, and no later check reports its cause. -/
theorem startBitSetAlwaysRejected : Obligations.StartBitSetAlwaysRejected := by
  refine fun s => ⟨fun h0 => exec_decode_of_error (decodeFn_of_startBit_set h0), fun h0 => ?_⟩
  refine exec_decode_cause_ne (by decide) fun herror => ?_
  cases h20 : bitAt s.tel 20 with
  | false => cases (decodeFn_of_marker_missing h0 h20).symm.trans herror
  | true => exact decodeFn_error_kind_ne_framing h0 h20 herror rfl

/-- Settles O17, by t[0]: its check comes before that of t[20], and no later check reports a framing cause. -/
theorem missingTimeMarkerAlwaysRejected : Obligations.MissingTimeMarkerAlwaysRejected := by
  refine fun s => ⟨fun h20 => ?_, fun h20 => exec_decode_cause_ne (by decide) fun herror => ?_⟩
  · cases h0 : s.tel.getLsbD 0 with
    | true => exact exec_decode_of_error (decodeFn_of_startBit_set h0)
    | false => exact exec_decode_of_error (decodeFn_of_marker_missing h0 h20)
  · cases h0 : bitAt s.tel 0 with
    | true => cases (decodeFn_of_startBit_set h0).symm.trans herror
    | false => exact decodeFn_error_kind_ne_framing h0 h20 herror rfl

end Sys2Proof.Claims
end

section
/-! SUPPORT. The range validator (44_range_validation R190 to R196): the order of its bounds, and why the bound of the weekday never
rejects. -/

namespace Sys2Proof.Machine

/-- The validator reports the first broken bound of a list (44_range_validation R193). -/
theorem rangeCheck_eq_find? (minute hour day weekday month : Nat) :
    rangeCheck minute hour day weekday month =
      (([(decide (60 < minute), Cause.rngMin), (decide (24 < hour), .rngHour), (decide (31 < day), .rngDay),
        (decide (7 < weekday), .rngWday), (decide (12 < month), .rngMon)].find? fun p => p.1).map fun p => p.2) := by
  simp only [rangeCheck, find?_cons_map_cause, List.find?_nil, Option.map_none, decide_eq_true_eq, gt_iff_lt]

/-- Only the bound of the weekday reports RNG_WDAY. -/
theorem weekday_gt_of_rangeCheck_rngWday {a b c d e : Nat} (h : rangeCheck a b c d e = some .rngWday) : 7 < d := by
  obtain ⟨hc, -⟩ | ⟨hc, -⟩ | ⟨hc, -⟩ | ⟨-, hlt⟩ | ⟨hc, -⟩ := rangeCheck_some h
  case inr.inr.inr.inl => exact hlt
  all_goals cases hc

/-- A weekday within its bound decides nothing: the verdict is that of weekday 0. -/
theorem rangeCheck_of_weekday_le {d : Nat} (hd : d ≤ 7) (a b c e : Nat) :
    rangeCheck a b c d e = rangeCheck a b c 0 e := by
  rw [rangeCheck, rangeCheck, if_neg (Nat.not_lt.2 hd), if_neg (Nat.not_lt_zero 7)]

/-- No telegram has RNG_WDAY as its outcome: the checks before the validator have other causes, and the validator would need a
weekday above 7 (44_range_validation R194). -/
theorem decodeFn_ne_rngWday (t : Telegram) : decodeFn t ≠ .error .rngWday := by
  intro h
  obtain hc | hc | hc | hc | hc | hrange := decodeFn_error h
  case inr.inr.inr.inr.inr =>
    exact absurd (weekday_gt_of_rangeCheck_rngWday hrange) (Nat.not_lt.2 (extract_weekday_le t))
  all_goals cases hc

end Sys2Proof.Machine

namespace Sys2Proof.Claims

open Sys2Proof.Machine

/-- Settles O24: the weekday is a group of three bits, so it is at most 7, and a weekday within its bound decides nothing. -/
theorem weekdayBoundNeverRejects : Obligations.WeekdayBoundNeverRejects := fun t =>
  ⟨extract_weekday_le t, decodeFn_ne_rngWday t, rangeCheck_of_weekday_le (extract_weekday_le t)⟩

/-- Settles O23: the validator's chain of bounds is the list's first match, and each of its causes is of kind RANGE. -/
theorem rangeReportsFirstBrokenBound : Obligations.RangeReportsFirstBrokenBound := fun minute hour day weekday month =>
  ⟨rangeCheck_eq_find? minute hour day weekday month, fun _ => rangeCheck_some_kind⟩

end Sys2Proof.Claims
end

section
/-! SUPPORT. DECODE and NOP as commands (45_decode_and_control R210 to R220): the one word of each, DECODE by the first failing
check, and the reserved bits of the words it commits. -/

namespace Sys2Proof

theorem decode_eq_nop_iff (v : Word) : decode v = .ok .nop ↔ v = 0x00000000#32 := by
  refine ⟨fun h => ?_, fun h => h ▸ rfl⟩
  obtain ⟨-, hhits⟩ | ⟨hi, -⟩ | ⟨hi, -⟩ | ⟨hi, -⟩ := decode_ok_cases h
  · exact (hits_nop v).1 hhits
  all_goals cases hi

theorem decode_eq_decode_iff (v : Word) : decode v = .ok .decode ↔ v = 0x00000001#32 := by
  refine ⟨fun h => ?_, fun h => h ▸ rfl⟩
  obtain ⟨hi, -⟩ | ⟨-, hhits⟩ | ⟨hi, -⟩ | ⟨hi, -⟩ := decode_ok_cases h
  case inr.inl => exact (hits_decode v).1 hhits
  all_goals cases hi

end Sys2Proof

namespace Sys2Proof.Machine

open Sys2Proof.Claims

/-- With no failing check DECODE commits the extracted fields (45_decode_and_control R210 step 9). -/
theorem exec_decode_of_firstFailure_none {s : State} (h : firstFailure s.tel = none) :
    exec .decode s = .next (succeed (commit (extract s.tel) s)) :=
  exec_decode_of_ok (decodeFn_of_firstFailure_none h)

/-- With a failing check DECODE reports the first one (45_decode_and_control R210, R212). -/
theorem exec_decode_of_firstFailure_some {s : State} {c : Cause} (h : firstFailure s.tel = some c) :
    exec .decode s = .next (fail c.kind c s) :=
  exec_decode_of_error (decodeFn_of_firstFailure_some h)

/-- The mask is the TIME layout with ones at its reserved fields (10_state R29). -/
theorem timeWord_and_reserved (r : TimeReg) : r.word &&& 0x00FCC080#32 = 0#32 := by
  have hmask : 0x00FCC080#32 =
      0#8 ++ BitVec.allOnes 6 ++ 0#1 ++ 0#1 ++ BitVec.allOnes 2 ++ 0#6 ++ BitVec.allOnes 1 ++ 0#7 := by
    decide
  rw [hmask, TimeReg.word, BitVec.and_append]
  simp only [BitVec.and_append, BitVec.and_zero, BitVec.zero_and]
  rfl

/-- The mask is the DATE layout with ones at its reserved fields (10_state R30). -/
theorem dateWord_and_reserved (r : DateReg) : r.word &&& 0x00E0F8C0#32 = 0#32 := by
  have hmask : 0x00E0F8C0#32 =
      0#8 ++ BitVec.allOnes 3 ++ 0#5 ++ BitVec.allOnes 5 ++ 0#3 ++ BitVec.allOnes 2 ++ 0#6 := by
    decide
  rw [hmask, DateReg.word, BitVec.and_append]
  simp only [BitVec.and_append, BitVec.and_zero, BitVec.zero_and]
  rfl

end Sys2Proof.Machine

namespace Sys2Proof.Claims

open Sys2Proof.Machine

/-- Settles O10, by the first failing check of the telegram in TEL; the committed words are packed as the layout says. -/
theorem decodeCommitsOrReportsFirstFailure : Obligations.DecodeCommitsOrReportsFirstFailure := by
  refine ⟨decode_eq_decode_iff, fun _ => rfl, fun s => ?_⟩
  cases hfirst : firstFailure s.tel with
  | none =>
    exact ⟨_, exec_decode_of_firstFailure_none hfirst, rfl, rfl, rfl, rfl, rfl, rfl, time_extract_word s.tel,
      date_extract_word s.tel, rfl⟩
  | some c => exact ⟨_, exec_decode_of_firstFailure_some hfirst, rfl, rfl, rfl, rfl, rfl, rfl, rfl, rfl, rfl⟩

/-- Settles O12: a failing check makes DECODE `fail`, which writes OK, KIND and CAUSE only. -/
theorem failedDecodeKeepsResultSlot : Obligations.FailedDecodeKeepsResultSlot := fun _ _ hfirst =>
  ⟨_, exec_decode_of_firstFailure_some hfirst, rfl, rfl, rfl, rfl, rfl, rfl, rfl⟩

/-- Settles O13: both states commit the fields of the same telegram, and no register value sets a reserved bit of its word. -/
theorem successfulDecodeOverwritesSlot : Obligations.SuccessfulDecodeOverwritesSlot := fun s tm dt hfirst =>
  ⟨_, _, exec_decode_of_firstFailure_none hfirst,
    exec_decode_of_firstFailure_none (s := { s with time := tm, date := dt }) hfirst, rfl, rfl,
    timeWord_and_reserved _, dateWord_and_reserved _⟩

/-- Settles O14, by the outcome of the telegram that both states hold. -/
theorem decodeDependsOnTelegramAlone : Obligations.DecodeDependsOnTelegramAlone := by
  intro s u htel
  cases hs : decodeFn s.tel with
  | error c =>
    have hu : decodeFn u.tel = .error c := htel ▸ hs
    exact ⟨_, _, exec_decode_of_error hs, exec_decode_of_error hu, rfl, rfl, rfl, fun hok => by cases hok⟩
  | ok f =>
    have hu : decodeFn u.tel = .ok f := htel ▸ hs
    exact ⟨_, _, exec_decode_of_ok hs, exec_decode_of_ok hu, rfl, rfl, rfl, fun _ => ⟨rfl, rfl, rfl, rfl⟩⟩

/-- Settles O6: the arm of NOP and the assembler's line by computation, the word by the rows of the opcode table. -/
theorem nopChangesNothing : Obligations.NopChangesNothing :=
  ⟨fun _ => rfl, decode_eq_nop_iff, fun _ => rfl⟩

end Sys2Proof.Claims
end

section
/-! SUPPORT. The exceptions' rules (60_exceptions R245, R248, R252): DECODE reports the first failing check, a command other than
NOP overwrites the outcome fields, and a platform's step is the step of one block. -/

namespace Sys2Proof.Machine

open Sys2Proof.Claims

theorem decodeFn_eq_error_iff (t : Telegram) (c : Cause) : decodeFn t = .error c ↔ firstFailure t = some c := by
  refine ⟨fun h => ?_, decodeFn_of_firstFailure_some⟩
  cases hfirst : firstFailure t with
  | none => cases h.symm.trans (decodeFn_of_firstFailure_none hfirst)
  | some d => rw [Except.error.inj (h.symm.trans (decodeFn_of_firstFailure_some hfirst))]

/-! ### A command and the STATUS it finds -/

/-- A command other than NOP completes, and of the STATUS it finds nothing but VALID can reach the state it leaves
(60_exceptions R248). -/
theorem exec_with_status {i : Instr} (hi : i ≠ .nop) (s : State) (st : Status) :
    ∃ t valid, exec i s = .next t ∧
      exec i { s with status := st } = .next { t with status := { t.status with valid := valid } } := by
  cases i with
  | nop => exact absurd rfl hi
  | decode =>
    cases h : decodeFn s.tel with
    | error c => exact ⟨_, st.valid, exec_decode_of_error h, exec_decode_of_error (s := { s with status := st }) h⟩
    | ok f => exact ⟨_, true, exec_decode_of_ok h, exec_decode_of_ok (s := { s with status := st }) h⟩
  | bcd2 bh bl => exact ⟨_, st.valid, exec_bcd2 bh bl s, exec_bcd2 bh bl _⟩
  | parity a b =>
    rcases Nat.lt_or_ge b a with hgt | hle
    · exact ⟨_, st.valid, exec_parity_of_gt hgt s, exec_parity_of_gt hgt _⟩
    · rcases Nat.lt_or_ge 58 b with hbeyond | hb
      · exact ⟨_, st.valid, exec_parity_of_beyond hle hbeyond s, exec_parity_of_beyond hle hbeyond _⟩
      · exact ⟨_, st.valid, exec_parity_of_le hle hb s, exec_parity_of_le hle hb _⟩

/-- The same of a command word other than NOP's, legal or not. -/
theorem execute_with_status {v : Word} (hv : v ≠ 0x00000000#32) (s : State) (st : Status) :
    ∃ t valid, execute v s = .next t ∧
      execute v { s with status := st } = .next { t with status := { t.status with valid := valid } } := by
  unfold execute
  cases h : decode v with
  | ok i => exact exec_with_status (fun hnop => hv ((decode_eq_nop_iff v).1 (hnop ▸ h))) s st
  | error r => exact ⟨_, st.valid, rfl, rfl⟩

/-! ### A platform's step -/

theorem andThen_eq_next_iff {α β : Type} {o : Host.Outcome α Fault Refusal} {f : α → Host.Outcome β Fault Refusal}
    {b : β} : andThen o f = .next b ↔ ∃ a, o = .next a ∧ f a = .next b := by
  cases o with
  | next a => exact ⟨fun h => ⟨a, rfl, h⟩, fun ⟨_, ha, h⟩ => by cases ha; exact h⟩
  | fault r | refused r => exact ⟨fun h => (nomatch h), fun ⟨_, ha, _⟩ => nomatch ha⟩

/-- A platform's step is nothing where there is no block `i`, and else the step of that block in its own place
(60_exceptions R252). -/
theorem stepBlock_cases {p q : Platform} {i : Nat} (h : p.stepBlock i = .next q) :
    (p.blocks[i]? = none ∧ q = p) ∨
      ∃ s t, p.blocks[i]? = some s ∧ step s = .next t ∧ q = ⟨p.blocks.set i t⟩ := by
  unfold Platform.stepBlock at h
  split at h
  · rename_i hnone
    cases h
    exact .inl ⟨hnone, rfl⟩
  · rename_i s hs
    obtain ⟨t, hstep, hq⟩ := andThen_eq_next_iff.1 h
    cases hq
    exact .inr ⟨s, t, hs, hstep, rfl⟩

end Sys2Proof.Machine

namespace Sys2Proof.Claims

open Sys2Proof.Machine

/-- Settles O11: the outcome function is the first failing check, or else a success, which is no failure. -/
theorem firstFailingCheckIsReported : Obligations.FirstFailingCheckIsReported := decodeFn_eq_error_iff

/-- Settles O47: run on another STATUS, the word leaves the same state but for VALID. -/
theorem outcomesAreNotSticky : Obligations.OutcomesAreNotSticky := by
  intro v s st hv
  obtain ⟨t, valid, hs, hst⟩ := execute_with_status hv s st
  exact ⟨t, _, hs, hst, rfl, rfl, rfl⟩

/-- Settles O54: the block that steps is replaced in its place of the list, which keeps the length and every other place. -/
theorem instancesAreIndependent : Obligations.InstancesAreIndependent := by
  intro p q i h
  obtain ⟨hnone, rfl⟩ | ⟨s, t, hs, hstep, rfl⟩ := stepBlock_cases h
  · exact ⟨rfl, fun _ _ => rfl, fun s hs => by cases hnone.symm.trans hs⟩
  · refine ⟨List.length_set, fun j hj => List.getElem?_set_ne hj.symm, fun s' hs' => ?_⟩
    obtain rfl := Option.some.inj (hs.symm.trans hs')
    exact ⟨t, hstep, List.getElem?_set_self (List.getElem?_eq_some_iff.1 hs).1⟩

end Sys2Proof.Claims
end

section
/-! SUPPORT. Reset and hazards (70_reset_and_hazards R272, R273, R282): runs of accesses one by one, a telegram written in either
order of its halves, the boot order, and what a step can do to the result slot. -/

namespace Sys2Proof.Machine

open Sys2Proof.Claims

/-! ### Runs of accesses -/

theorem performAll_append (evs more : List BusEvent) (s : State) :
    performAll (evs ++ more) s = andThen (performAll evs s) (performAll more) := by
  induction evs generalizing s with
  | nil => rfl
  | cons ev rest ih =>
    rw [List.cons_append, performAll, performAll]
    cases perform ev s with
    | next t => exact ih t
    | fault r | refused r => rfl

theorem performAll_append_of_next {evs : List BusEvent} {s t : State} (h : performAll evs s = .next t)
    (more : List BusEvent) : performAll (evs ++ more) s = performAll more t := by
  rw [performAll_append, h, andThen]

theorem performAll_cons_of_next {ev : BusEvent} {s t : State} (h : perform ev s = .next t) (rest : List BusEvent) :
    performAll (ev :: rest) s = performAll rest t := by
  rw [performAll, h, andThen]

theorem regRead_recordRead (v : Word) (s : State) (r : RegName) : regRead (recordRead v s) r = regRead s r := by
  cases r <;> rfl

/-- Reads by the host leave every register, so each returns the word that stood there at first (20_memory R52). -/
theorem performAll_reads (rs : List RegName) {s : State} (hreset : s.resetAsserted = false) :
    performAll (rs.map fun r => .read 32 (s.addrOf r)) s =
      .next { s with readLog := s.readLog ++ rs.map (regRead s) } := by
  induction rs generalizing s with
  | nil => rw [List.map_nil, List.map_nil, List.append_nil]; rfl
  | cons r rest ih =>
    have hsame : rest.map (regRead (recordRead (regRead s r) s)) = rest.map (regRead s) :=
      List.map_congr_left fun q _ => regRead_recordRead _ s q
    have hrest := ih (s := recordRead (regRead s r) s) hreset
    rw [hsame, recordRead_readLog, List.append_assoc] at hrest
    rw [List.map_cons, performAll_cons_of_next (perform_read hreset r)]
    exact hrest

/-- The host's write of DECODE's word to CMD. -/
theorem perform_write_decode {s : State} (hreset : s.resetAsserted = false) :
    perform (.write 32 (s.addrOf .cmd) 0x00000001#32) s = exec .decode s :=
  perform_write hreset .cmd _

theorem exec_decode_completes (s : State) : ∃ t, exec .decode s = .next t := by
  obtain ⟨t, ht, -⟩ := exec_decode_twice s
  exact ⟨t, ht⟩

/-- A register write that leaves the reset input and the window, then DECODE: DECODE runs in the state of the write
(70_reset_and_hazards R282). -/
theorem performAll_write_decode {s u t : State} {r : RegName} {v : Word} (hreset : s.resetAsserted = false)
    (hwrite : regWrite r v s = .next u) (hrun : u.resetAsserted = s.resetAsserted) (hbase : u.baseIndex = s.baseIndex)
    (hexec : exec .decode u = .next t) :
    performAll [.write 32 (s.addrOf r) v, .write 32 (s.addrOf .cmd) 0x00000001#32] s = .next t := by
  have hcmd := (perform_write_decode (hrun.trans hreset)).trans hexec
  rw [addrOf_eq, hbase] at hcmd
  rw [performAll_cons_of_next ((perform_write hreset r v).trans hwrite)]
  exact performAll_cons_of_next hcmd []

/-! ### The boot order -/

/-- The two writes of a telegram replace different bits, so their order does not matter (10_state R21, R22). -/
theorem writeTelLo_writeTelHi_comm (lo hi : Word) (s : State) :
    writeTelLo lo (writeTelHi hi s) = writeTelHi hi (writeTelLo lo s) := by
  have htel : (writeTelLo lo (writeTelHi hi s)).tel = (writeTelHi hi (writeTelLo lo s)).tel := by
    rw [writeTelLo_tel, writeTelHi_tel, writeTelHi_tel, writeTelLo_tel, BitVec.extractLsb'_append_eq_left,
      BitVec.extractLsb'_append_eq_right]
  exact congrArg (fun x => { s with tel := x }) htel

theorem performAll_telWrites_hi_first {s : State} (hreset : s.resetAsserted = false) (lo hi : Word) :
    performAll [.write 32 (32 * s.baseIndex + 4) hi, .write 32 (32 * s.baseIndex) lo] s =
      .next (writeTelHi hi (writeTelLo lo s)) := by
  have hhi : perform (.write 32 (32 * s.baseIndex + 4) hi) s = .next (writeTelHi hi s) := perform_write hreset .telHi hi
  have hlo : perform (.write 32 (32 * s.baseIndex) lo) (writeTelHi hi s) = .next (writeTelLo lo (writeTelHi hi s)) :=
    perform_write (s := writeTelHi hi s) hreset .telLo lo
  rw [performAll_cons_of_next hhi, performAll_cons_of_next hlo, writeTelLo_writeTelHi_comm, performAll]

/-- The two halves of a telegram, written one after the other, make it up. -/
theorem writeTel_halves (bits : Telegram) (s : State) :
    writeTelHi ((bits.extractLsb' 32 27).setWidth 32) (writeTelLo (bits.extractLsb' 0 32) s) = { s with tel := bits } :=
  writeTelHi_writeTelLo_eq s (fun _ => getLsbD_telLoWord bits) fun _ hj => getLsbD_telHiWord bits (hj.trans (by decide))

/-- The boot order after the TEL writes: DECODE, then the three words of its outcome are read
(70_reset_and_hazards R273). -/
theorem performAll_bootTail {s t : State} (hreset : s.resetAsserted = false) (hexec : exec .decode s = .next t)
    (hrun : t.resetAsserted = s.resetAsserted) (hbase : t.baseIndex = s.baseIndex) :
    performAll (bootTail s.baseIndex) s =
      .next { t with readLog := t.readLog ++ [regRead t .status, regRead t .time, regRead t .date] } := by
  have hcmd : perform (.write 32 (32 * s.baseIndex + 8) 0x00000001#32) s = .next t :=
    (perform_write_decode hreset).trans hexec
  rw [bootTail, performAll_cons_of_next hcmd, ← hbase]
  exact performAll_reads [.status, .time, .date] (hrun.trans hreset)

/-- After either order of the two TEL writes the rest of a run starts from the loaded telegram. -/
theorem performAll_telWrites_append (bits : Telegram) (more : List BusEvent) {s : State}
    (hreset : s.resetAsserted = false) :
    performAll ([.write 32 (32 * s.baseIndex) (bits.extractLsb' 0 32),
        .write 32 (32 * s.baseIndex + 4) ((bits.extractLsb' 32 27).setWidth 32)] ++ more) s =
      performAll more { s with tel := bits } ∧
    performAll ([.write 32 (32 * s.baseIndex + 4) ((bits.extractLsb' 32 27).setWidth 32),
        .write 32 (32 * s.baseIndex) (bits.extractLsb' 0 32)] ++ more) s =
      performAll more { s with tel := bits } := by
  have hlo := performAll_telWrites hreset (bits.extractLsb' 0 32) ((bits.extractLsb' 32 27).setWidth 32)
  have hhi := performAll_telWrites_hi_first hreset (bits.extractLsb' 0 32) ((bits.extractLsb' 32 27).setWidth 32)
  rw [writeTel_halves] at hlo hhi
  exact ⟨performAll_append_of_next hlo more, performAll_append_of_next hhi more⟩

/-- The telegram after reset has no time marker t[20]. -/
theorem decodeFn_zero : decodeFn 0#59 = .error .frameB20 :=
  decodeFn_of_marker_missing BitVec.getLsbD_zero BitVec.getLsbD_zero

/-- The STATUS word is the sum of its fields at their places (10_state R24). -/
theorem statusWord_eq_ofNat (st : Status) : st.word =
    BitVec.ofNat 32 (st.ok.toNat + 2 * st.kind.code.toNat + 2 ^ 4 * st.valid.toNat + 2 ^ 8 * st.cause.code.toNat) := by
  apply BitVec.eq_of_toNat_eq
  have hlt := st.word.isLt
  simp only [Status.word, toNat_append_add, BitVec.toNat_ofBool, BitVec.toNat_ofNat] at hlt ⊢
  omega

/-- The STATUS word of a failure before the first success. -/
theorem statusWord_of_failure (k : Kind) (c : Cause) : Status.word ⟨false, k, false, c⟩ =
    BitVec.ofNat 32 (2 * k.code.toNat + 2 ^ 8 * c.code.toNat) := by
  rw [statusWord_eq_ofNat]
  simp

/-! ### The result slot -/

/-- VALID, TIME and DATE are the same. -/
def SameSlot (s t : State) : Prop := t.status.valid = s.status.valid ∧ t.time = s.time ∧ t.date = s.date

theorem decodeFn_eq_ok_iff (t : Telegram) (f : Fields) :
    decodeFn t = .ok f ↔ firstFailure t = none ∧ f = extract t := by
  constructor
  · intro h
    cases hfirst : firstFailure t with
    | none => exact ⟨rfl, Except.ok.inj (h.symm.trans (decodeFn_of_firstFailure_none hfirst))⟩
    | some c => cases h.symm.trans (decodeFn_of_firstFailure_some hfirst)
  · rintro ⟨hfirst, rfl⟩
    exact decodeFn_of_firstFailure_none hfirst

/-- A command leaves the result slot, or is a DECODE with no failing check, which commits its own result. -/
theorem exec_slot_cases {i : Instr} {s t : State} (h : exec i s = .next t) :
    SameSlot s t ∨ (i = .decode ∧ firstFailure s.tel = none ∧ t = succeed (commit (extract s.tel) s)) := by
  obtain ⟨-, rfl⟩ | ⟨_, -, -, rfl⟩ | ⟨f, hi, hf, rfl⟩ | ⟨_, _, -, rfl⟩ | ⟨_, _, -, -, rfl⟩ | ⟨_, _, -, -, -, rfl⟩ |
    ⟨_, _, -, -, -, rfl⟩ := exec_cases h
  case inr.inr.inl =>
    obtain ⟨hfirst, rfl⟩ := (decodeFn_eq_ok_iff _ _).1 hf
    exact .inr ⟨hi, hfirst, rfl⟩
  all_goals exact .inl ⟨rfl, rfl, rfl⟩

/-- The same of a command word: the one word that can commit is DECODE's. -/
theorem execute_slot_cases {v : Word} {s t : State} (h : execute v s = .next t) :
    SameSlot s t ∨ (v = 0x00000001#32 ∧ firstFailure s.tel = none ∧ t = succeed (commit (extract s.tel) s)) := by
  obtain ⟨i, hi, hexec⟩ | ⟨_, -, rfl⟩ := execute_cases h
  · refine (exec_slot_cases hexec).imp_right fun ⟨hdecode, hcommit⟩ => ⟨?_, hcommit⟩
    exact (decode_eq_decode_iff v).1 (hdecode ▸ hi)
  · exact .inl ⟨rfl, rfl, rfl⟩

/-- An event leaves the result slot, or it asserts reset, or it writes a DECODE with no failing check to CMD. -/
theorem perform_slot_cases {ev : BusEvent} {s t : State} (h : perform ev s = .next t) :
    SameSlot s t ∨ ev = .assertReset ∨
      (ev = .write 32 (s.addrOf .cmd) 0x00000001#32 ∧ firstFailure s.tel = none ∧
        t = succeed (commit (extract s.tel) s)) := by
  obtain ⟨_, -, -, rfl⟩ | ⟨r, v, rfl, -, hwrite⟩ | ⟨hev, -⟩ | ⟨-, rfl⟩ := perform_cases h
  · exact .inl ⟨rfl, rfl, rfl⟩
  · obtain ⟨-, rfl⟩ | ⟨-, rfl⟩ | ⟨rfl, hexecute⟩ | ⟨-, -, -, rfl⟩ := regWrite_cases hwrite
    · exact .inl ⟨rfl, rfl, rfl⟩
    · exact .inl ⟨rfl, rfl, rfl⟩
    · exact (execute_slot_cases hexecute).imp_right fun ⟨hv, hcommit⟩ => .inr ⟨hv ▸ rfl, hcommit⟩
    · exact .inl ⟨rfl, rfl, rfl⟩
  · exact .inr (.inl hev)
  · exact .inl ⟨rfl, rfl, rfl⟩

end Sys2Proof.Machine

namespace Sys2Proof.Claims

open Sys2Proof.Machine

/-- Settles O40: both orders of the TEL writes load the telegram, DECODE runs on it, and its outcome is the first failing
check. -/
theorem bootOrderDecodesTheWrittenTelegram : Obligations.BootOrderDecodesTheWrittenTelegram := by
  intro b
  refine ⟨⟨_, exec_decode_of_error decodeFn_zero, statusWord_of_failure .framing .frameB20, timeReset_word,
    dateReset_word⟩, fun bits => ?_⟩
  obtain ⟨hloFirst, hhiFirst⟩ := performAll_telWrites_append bits (bootTail b) (resetAt_resetAsserted b)
  cases hfirst : firstFailure bits with
  | none =>
    have htail := performAll_bootTail (s := { State.resetAt b with tel := bits }) rfl
      (exec_decode_of_firstFailure_none hfirst) rfl rfl
    refine ⟨_, hloFirst.trans htail, hhiFirst.trans htail, ?_⟩
    change [Status.word ⟨true, .none, true, .none⟩, (extract bits).time.word, (extract bits).date.word] = _
    rw [statusWord_eq_ofNat, time_extract_word, date_extract_word]
    rfl
  | some c =>
    have htail := performAll_bootTail (s := { State.resetAt b with tel := bits }) rfl
      (exec_decode_of_firstFailure_some hfirst) rfl rfl
    refine ⟨_, hloFirst.trans htail, hhiFirst.trans htail, ?_⟩
    change [Status.word ⟨false, c.kind, false, c⟩, TimeReg.reset.word, DateReg.reset.word] = _
    rw [statusWord_of_failure, timeReset_word, dateReset_word]

/-- Settles O45, by what the performed event can do to the result slot. -/
theorem onlyResetClearsTheResultSlot : Obligations.OnlyResetClearsTheResultSlot := by
  intro s t hstep hvalid
  obtain ⟨-, rfl⟩ | ⟨ev, rest, hpending, hperform⟩ := step_cases hstep
  · exact .inr ⟨hvalid, .inl ⟨rfl, rfl⟩⟩
  · obtain ⟨hsame, htime, hdate⟩ | rfl | ⟨rfl, hfirst, rfl⟩ := perform_slot_cases hperform
    · exact .inr ⟨hsame.trans hvalid, .inl ⟨htime, hdate⟩⟩
    · exact .inl ⟨rest, hpending⟩
    · exact .inr ⟨rfl, .inr ⟨rest, hpending, hfirst, time_extract_word s.tel, date_extract_word s.tel⟩⟩

/-- Settles O48: each TEL write leaves the other half, and DECODE completes on whatever TEL holds. -/
theorem splitTelegramIsDecodedAsMixed : Obligations.SplitTelegramIsDecodedAsMixed := by
  intro s v hreset
  obtain ⟨t, ht⟩ := exec_decode_completes (writeTelLo v s)
  obtain ⟨u, hu⟩ := exec_decode_completes (writeTelHi v s)
  exact ⟨⟨t, performAll_write_decode (r := .telLo) hreset rfl rfl rfl ht, ht⟩,
    ⟨u, performAll_write_decode (r := .telHi) hreset rfl rfl rfl hu, hu⟩⟩

end Sys2Proof.Claims
end

section
/-! SUPPORT. The round trip of the command words (30_encoding section 3) and the words the assembler emits (30_encoding R78). -/

namespace Sys2Proof

open Sys2Proof.Machine

theorem wellFormed_parity {a b : Nat} : WellFormed (.parity a b) ↔ a ≤ 63 ∧ b ≤ 63 := by
  rw [WellFormed, wellFormed, Bool.and_eq_true, decide_eq_true_eq, decide_eq_true_eq]

/-- The index fields of a word have six bits (30_encoding R73, R74). -/
theorem wellFormed_parity_fields (v : Word) : WellFormed (.parity (sField v) (eField v)) :=
  wellFormed_parity.2 ⟨Nat.le_of_lt_succ (v.extractLsb' 8 6).isLt, Nat.le_of_lt_succ (v.extractLsb' 16 6).isLt⟩

theorem decode_encode_bcd2 (bh bl : Nibble) : decode (encode (.bcd2 bh bl)) = .ok (.bcd2 bh bl) := by
  obtain ⟨hbh, hbl⟩ := fields_encode_bcd2 bh bl
  rw [decode_of_hits_bcd2 (hits_encode_bcd2 bh bl), hbh, hbl]

theorem decode_encode_parity {a b : Nat} (ha : a ≤ 63) (hb : b ≤ 63) :
    decode (encode (.parity a b)) = .ok (.parity a b) := by
  obtain ⟨hs, he⟩ := fields_encode_parity ha hb
  rw [decode_of_hits_parity (hits_encode_parity ha hb), hs, he]

end Sys2Proof

namespace Sys2Proof.Machine

theorem assemble_bcd2_of_gt (base : Nat) {n : Nat} (h : 0xFF < n) : assemble base (.bcd2 n) = .error .bcd2Range :=
  if_pos h

theorem assemble_parity_of_gt (base : Nat) {a b : Nat} (h : 63 < a ∨ 63 < b) :
    assemble base (.parity a b) = .error .parityRange :=
  if_pos h

end Sys2Proof.Machine

namespace Sys2Proof.Claims

open Sys2Proof.Machine

/-- Settles O2, by cases on the command: its word hits its own row and no row before it, and holds its operands. -/
theorem decodeOfEncodeIsIdentity : Obligations.DecodeOfEncodeIsIdentity := by
  intro i hi
  cases i with
  | nop => exact (decode_eq_nop_iff _).2 rfl
  | decode => exact (decode_eq_decode_iff _).2 rfl
  | bcd2 bh bl => exact decode_encode_bcd2 bh bl
  | parity a b =>
    obtain ⟨ha, hb⟩ := wellFormed_parity.1 hi
    exact decode_encode_parity ha hb

/-- Settles O3: a word that decodes hits the row of its command, and the hit says that it is the encoding of that command with
the operands of its fields. -/
theorem encodeOfDecodeIsIdentity : Obligations.EncodeOfDecodeIsIdentity := by
  intro v i h
  obtain ⟨rfl, hhits⟩ | ⟨rfl, hhits⟩ | ⟨rfl, hhits⟩ | ⟨rfl, hhits⟩ := decode_ok_cases h
  · exact ⟨rfl, ((hits_nop v).1 hhits).symm⟩
  · exact ⟨rfl, ((hits_decode v).1 hhits).symm⟩
  · exact ⟨rfl, ((hits_bcd2 v).1 hhits).symm⟩
  · exact ⟨wellFormed_parity_fields v, ((hits_parity v).1 hhits).symm⟩

/-- Settles O1: four of the words are encodings, and the other two hit no row. -/
theorem writtenOutWordsDecode : Obligations.WrittenOutWordsDecode :=
  ⟨decodeOfEncodeIsIdentity .nop rfl, decodeOfEncodeIsIdentity .decode rfl, decode_encode_bcd2 5#4 9#4,
    decode_encode_parity (a := 21) (b := 27) (by decide) (by decide), by decide, by decide⟩

/-- Settles O53: the assembler's word is the encoding where the operands fit, and its range test refuses the others. -/
theorem assemblerEmitsTheCommandWord : Obligations.AssemblerEmitsTheCommandWord := fun base =>
  ⟨rfl, rfl, fun _ => assemble_bcd2 base, fun _ => assemble_bcd2_of_gt base, fun _ _ => assemble_parity base,
    fun _ _ => assemble_parity_of_gt base⟩

end Sys2Proof.Claims
end

section
/-! SUPPORT. The state invariant (10_state R24 to R31, 70_reset_and_hazards R270): it holds after reset, and each way in which a step
can change the registers keeps it. -/

namespace Sys2Proof.Machine

/-! ### After reset -/

theorem statusConsistent_resetAt (b : Nat) : StatusConsistent (State.resetAt b) where
  kind_of_cause := rfl
  ok_no_cause _ := rfl
  no_weekday_cause := nofun
  untouched _ _ := ⟨rfl, rfl⟩

theorem slotConsistent_resetAt (b : Nat) : SlotConsistent (State.resetAt b) where
  empty _ := ⟨rfl, rfl⟩
  filled := nofun

theorem withinBounds_resetAt (b : Nat) : WithinBounds (State.resetAt b) where
  minute := Nat.zero_le 60
  hour := Nat.zero_le 24
  day := Nat.zero_le 31
  month := Nat.zero_le 12
  year := Nat.zero_le 165
  summer := show -1 ≤ TimeReg.reset.summer.toInt ∧ TimeReg.reset.summer.toInt ≤ 2 by decide
  aux := Nat.zero_le 165

theorem stateInv_resetAt (b : Nat) : StateInv (State.resetAt b) where
  status := statusConsistent_resetAt b
  slot := slotConsistent_resetAt b
  bounds := withinBounds_resetAt b
  reset := nofun

/-! ### The ways a step changes the registers -/

theorem heldInReset_of_released {s : State} (h : s.resetAsserted = false) : HeldInReset s :=
  fun hheld => by cases h.symm.trans hheld

/-- Of the registers the invariant speaks of, TEL matters only while reset is asserted. -/
theorem stateInv_of_outcome_eq {s t : State} (h : StateInv s) (hstatus : t.status = s.status) (htime : t.time = s.time)
    (hdate : t.date = s.date) (haux : t.aux = s.aux) (hheld : HeldInReset t) : StateInv t := by
  obtain ⟨⟨hkind, hok, hwday, huntouched⟩, ⟨hempty, hfilled⟩, ⟨hmin, hhour, hday, hmon, hyear, hsummer, hbound⟩, -⟩ := h
  rw [← hstatus] at hkind hok hwday huntouched hempty hfilled
  rw [← htime] at hempty hfilled hmin hhour hsummer
  rw [← hdate] at hempty hfilled hday hmon hyear
  rw [← haux] at huntouched hbound
  exact ⟨⟨hkind, hok, hwday, huntouched⟩, ⟨hempty, hfilled⟩, ⟨hmin, hhour, hday, hmon, hyear, hsummer, hbound⟩, hheld⟩

theorem stateInv_applyReset (s : State) : StateInv (applyReset s) :=
  stateInv_of_outcome_eq (stateInv_resetAt s.baseIndex) rfl rfl rfl rfl fun _ => ⟨rfl, rfl, rfl, rfl, rfl⟩

section Released

variable {s t : State}

/-- A failure that names a cause, with the kind of that cause, touches nothing but STATUS. -/
theorem stateInv_fail {c : Cause} (h : StateInv s) (hreset : s.resetAsserted = false) (hnone : c ≠ .none)
    (hwday : c ≠ .rngWday) : StateInv (fail c.kind c s) where
  status := ⟨rfl, nofun, hwday, fun _ hcause => absurd hcause hnone⟩
  slot := ⟨h.slot.empty, h.slot.filled⟩
  bounds := ⟨h.bounds.minute, h.bounds.hour, h.bounds.day, h.bounds.month, h.bounds.year, h.bounds.summer, h.bounds.aux⟩
  reset := heldInReset_of_released hreset

theorem statusConsistent_succeed (s : State) : StatusConsistent (succeed s) :=
  ⟨rfl, fun _ => rfl, nofun, nofun⟩

/-- A success with a result of at most 165 in AUX leaves the slot (41_bcd R123). -/
theorem stateInv_succeed_writeAux {x : Nat} (h : StateInv s) (hreset : s.resetAsserted = false) (hx : x ≤ 165) :
    StateInv (succeed (writeAux x s)) where
  status := statusConsistent_succeed _
  slot := ⟨h.slot.empty, h.slot.filled⟩
  bounds :=
    { minute := h.bounds.minute, hour := h.bounds.hour, day := h.bounds.day, month := h.bounds.month,
      year := h.bounds.year, summer := h.bounds.summer,
      aux := (toNat_ofNat_of_lt (hx.trans_lt (by decide))).trans_le hx }
  reset := heldInReset_of_released hreset

/-- A commit fills the slot with the fields of a telegram that decodes, whose bounds the checks have tested and whose fields the
registers hold without loss (10_state R31). -/
theorem stateInv_succeed_commit {f : Fields} (h : StateInv s) (hreset : s.resetAsserted = false)
    (hf : decodeFn s.tel = .ok f) : StateInv (succeed (commit f s)) where
  status := statusConsistent_succeed _
  slot := ⟨nofun, fun _ => ⟨s.tel, f, hf, rfl, rfl⟩⟩
  bounds := by
    obtain ⟨hminute, hhour, hday, -, hmonth, hyear, hsummer⟩ := decodeFn_ok_bounds hf
    obtain ⟨-, rfl⟩ := (decodeFn_eq_ok_iff _ _).1 hf
    obtain ⟨htminute, hthour, htsummer⟩ := time_extract_exact s.tel
    obtain ⟨hdday, -, hdmonth, hdyear⟩ := date_extract_exact s.tel
    exact ⟨htminute.trans_le hminute, hthour.trans_le hhour, hdday.trans_le hday, hdmonth.trans_le hmonth,
      hdyear.trans_le hyear, htsummer.symm ▸ hsummer, h.bounds.aux⟩
  reset := heldInReset_of_released hreset

/-- DECODE always names the cause of its failure. -/
theorem decodeFn_ne_none (t : Telegram) : decodeFn t ≠ .error .none := by
  intro h
  obtain hkind | hkind | hkind := decodeFn_error_kind h <;> cases hkind

/-- Every command keeps the invariant. -/
theorem stateInv_exec {i : Instr} (h : StateInv s) (hreset : s.resetAsserted = false) (hexec : exec i s = .next t) :
    StateInv t := by
  obtain ⟨-, rfl⟩ | ⟨c, -, hc, rfl⟩ | ⟨f, -, hf, rfl⟩ | ⟨bh, bl, -, rfl⟩ | ⟨a, b, -, -, rfl⟩ | ⟨a, b, -, -, -, rfl⟩ |
    ⟨a, b, -, -, -, rfl⟩ := exec_cases hexec
  · exact h
  · refine stateInv_fail h hreset ?_ ?_
    · rintro rfl; exact decodeFn_ne_none _ hc
    · rintro rfl; exact decodeFn_ne_rngWday _ hc
  · exact stateInv_succeed_commit h hreset hf
  · exact stateInv_succeed_writeAux h hreset (twoDigits_nibbles_le bh bl)
  · exact stateInv_succeed_writeAux h hreset (by decide)
  · exact stateInv_fail (c := .illRange) h hreset (by decide) (by decide)
  · exact stateInv_succeed_writeAux h hreset ((parityOf_le_one s.tel a b).trans (by decide))

theorem stateInv_execute {v : Word} (h : StateInv s) (hreset : s.resetAsserted = false)
    (hexecute : execute v s = .next t) : StateInv t := by
  obtain ⟨i, -, hexec⟩ | ⟨-, -, rfl⟩ := execute_cases hexecute
  · exact stateInv_exec h hreset hexec
  · exact stateInv_fail (c := .illCmd) h hreset (by decide) (by decide)

theorem stateInv_regWrite {r : RegName} {v : Word} (h : StateInv s) (hreset : s.resetAsserted = false)
    (hwrite : regWrite r v s = .next t) : StateInv t := by
  obtain ⟨-, rfl⟩ | ⟨-, rfl⟩ | ⟨-, hexecute⟩ | ⟨-, -, -, rfl⟩ := regWrite_cases hwrite
  · exact stateInv_of_outcome_eq h rfl rfl rfl rfl (heldInReset_of_released hreset)
  · exact stateInv_of_outcome_eq h rfl rfl rfl rfl (heldInReset_of_released hreset)
  · exact stateInv_execute h hreset hexecute
  · exact h

end Released

/-- Every event keeps the invariant. -/
theorem stateInv_perform {ev : BusEvent} {s t : State} (h : StateInv s) (hperform : perform ev s = .next t) :
    StateInv t := by
  obtain ⟨_, -, hreset, rfl⟩ | ⟨r, v, -, hreset, hwrite⟩ | ⟨-, rfl⟩ | ⟨-, rfl⟩ := perform_cases hperform
  · exact stateInv_of_outcome_eq h rfl rfl rfl rfl (heldInReset_of_released hreset)
  · exact stateInv_regWrite h hreset hwrite
  · exact stateInv_applyReset s
  · exact stateInv_of_outcome_eq h rfl rfl rfl rfl (heldInReset_of_released rfl)

end Sys2Proof.Machine

namespace Sys2Proof.Claims

open Sys2Proof.Machine

/-- Settles O41, part by part of the invariant. -/
theorem resetMeetsInvariant : Obligations.ResetMeetsInvariant := stateInv_resetAt

/-- Settles O42: the queue is no part of the invariant, and every event keeps it. -/
theorem everyStepKeepsInvariant : Obligations.EveryStepKeepsInvariant := by
  intro s t h hstep
  obtain ⟨-, rfl⟩ | ⟨ev, rest, -, hperform⟩ := step_cases hstep
  · exact h
  · have hqueue : StateInv { s with pending := rest } := stateInv_of_outcome_eq h rfl rfl rfl rfl h.reset
    exact stateInv_perform hqueue hperform

end Sys2Proof.Claims
end

section
/-! SUPPORT. The outcome of DECODE and the registers that hold it (45_decode_and_control R215, 10_state R24 to R30): when a telegram
decodes, what a flipped data bit does to it, the codes of the outcome, and the packed words. -/

namespace Sys2Proof.Machine

open Sys2Proof.Claims

/-! ### When a telegram decodes -/

theorem tb_le_one (t : Telegram) (i : Nat) : tb t i ≤ 1 := boolNat_le_one _

/-- No check fails exactly when each of the ten holds. -/
theorem firstFailure_eq_none_iff (t : Telegram) : firstFailure t = none ↔
    tb t 0 ≠ 1 ∧ tb t 20 ≠ 0 ∧ popcount t 21 27 % 2 = tb t 28 ∧ popcount t 29 34 % 2 = tb t 35 ∧
      popcount t 36 57 % 2 = tb t 58 ∧ minuteOf t ≤ 60 ∧ hourOf t ≤ 24 ∧ dayOf t ≤ 31 ∧ weekdayOf t ≤ 7 ∧
      monthOf t ≤ 12 := by
  simp [firstFailure, failedChecks]

/-- A group passes exactly when its ones and its parity bit together are even in number (42_parity R141). -/
theorem mod_two_eq_iff_even_total {n p : Nat} (hp : p ≤ 1) : n % 2 = p ↔ (n + p) % 2 = 0 := by omega

/-! ### A flipped data bit -/

/-- Flipping a bit that is not its parity bit makes a group that passes fail exactly when the bit is one of the group. -/
theorem parityPasses_flipBit_of_pass {t : Telegram} {s e p i : Nat} (hpass : parityPasses t s e p = true) (hep : e < p)
    (hp : p ≤ 58) (hi : i ≠ p) : parityPasses (flipBit t i) s e p = !decide (s ≤ i ∧ i ≤ e) := by
  by_cases hmem : s ≤ i ∧ i ≤ e
  · rw [parityPasses_flipBit t (by omega) hp (by omega) (.inl hmem), hpass, decide_eq_true hmem]
  · rw [parityPasses, bitAt_flipBit_of_ne t hi, parityOf_flipBit_of_not_mem t hmem, decide_eq_false hmem, Bool.not_false,
      ← hpass, parityPasses]

/-- With a data bit flipped, the framing checks and the other groups still pass, and the bit's own group fails
(45_decode_and_control R215). -/
theorem decodeFn_flipBit {t : Telegram} {f : Fields} {i : Nat} (h : decodeFn t = .ok f) (hlo : 21 ≤ i) (hhi : i ≤ 57)
    (h28 : i ≠ 28) (h35 : i ≠ 35) : decodeFn (flipBit t i) =
      .error (if i ≤ 27 then .parMin else if i ≤ 34 then .parHour else .parDate) := by
  obtain ⟨hstart, hmarker, hmin, hhour, hdate, -⟩ := decodeFn_ok h
  rw [decodeFn, bitAt_flipBit_of_ne t (show i ≠ 0 by omega), bitAt_flipBit_of_ne t (show i ≠ 20 by omega), hstart,
    hmarker, parityPasses_flipBit_of_pass hmin (by decide) (by decide) h28,
    parityPasses_flipBit_of_pass hhour (by decide) (by decide) h35,
    parityPasses_flipBit_of_pass hdate (by decide) (by decide) (by omega)]
  obtain hgroup | hgroup | hgroup : i ≤ 27 ∨ (29 ≤ i ∧ i ≤ 34) ∨ 36 ≤ i := by omega
  · simp [hlo, hgroup]
  · simp [hgroup, show ¬i ≤ 27 by omega]
  · simp [hgroup, hhi, show ¬i ≤ 27 by omega, show ¬i ≤ 34 by omega]

/-! ### The packed words -/

theorem statusWord_toNat (st : Status) : st.word.toNat =
    st.ok.toNat + 2 * st.kind.code.toNat + 2 ^ 4 * st.valid.toNat + 2 ^ 8 * st.cause.code.toNat := by
  simp only [Status.word, toNat_append_add, BitVec.toNat_ofBool, BitVec.toNat_ofNat]
  omega

theorem timeWord_toNat (r : TimeReg) : r.word.toNat =
    r.minute.toNat + 2 ^ 8 * r.hour.toNat + 2 ^ 16 * r.ant.toNat + 2 ^ 17 * r.tchg.toNat + 2 ^ 24 * r.summer.toNat := by
  simp only [TimeReg.word, toNat_append_add, BitVec.toNat_ofBool, BitVec.toNat_ofNat]
  omega

theorem dateWord_toNat (r : DateReg) : r.word.toNat =
    r.day.toNat + 2 ^ 8 * r.wday.toNat + 2 ^ 16 * r.month.toNat + 2 ^ 24 * r.year.toNat := by
  simp only [DateReg.word, toNat_append_add, BitVec.toNat_ofNat]
  omega

/-! ### The outcome codes -/

theorem kind_code_le (k : Kind) : k.code.toNat ≤ 4 := by cases k <;> decide

theorem cause_code_le (c : Cause) : c.code.toNat ≤ 12 := by cases c <;> decide

/-- The KIND of each CAUSE by its code (10_state R28, 60_exceptions R243). -/
theorem cause_kind_code (c : Cause) : c.kind.code.toNat =
    if c.code.toNat = 0 then 0 else if c.code.toNat ≤ 2 then 1 else if c.code.toNat ≤ 5 then 2
    else if c.code.toNat ≤ 10 then 3 else 4 := by
  cases c <;> decide

/-- The causes in the order of their codes (10_state R28). -/
def causes : List Cause :=
  [.none, .frameB0, .frameB20, .parMin, .parHour, .parDate, .rngMin, .rngHour, .rngDay, .rngWday, .rngMon, .illCmd,
    .illRange]

/-- Each cause stands at its code. -/
theorem causes_getElem?_code (c : Cause) : causes[c.code.toNat]? = some c := by cases c <;> rfl

theorem cause_code_injective {c d : Cause} (h : c.code = d.code) : c = d := by
  have hc := causes_getElem?_code c
  rw [h, causes_getElem?_code] at hc
  exact (Option.some.inj hc).symm

end Sys2Proof.Machine

namespace Sys2Proof.Claims

open Sys2Proof.Machine

/-- Settles O18: a telegram decodes when no check fails, to its extracted fields; a group's parity is an even total of its ones
and its parity bit. -/
theorem decodesExactlyWhenAllChecksHold : Obligations.DecodesExactlyWhenAllChecksHold := by
  intro t f
  have hstart : tb t 0 ≠ 1 ↔ tb t 0 = 0 := by have := tb_le_one t 0; omega
  have hmarker : tb t 20 ≠ 0 ↔ tb t 20 = 1 := by have := tb_le_one t 20; omega
  rw [decodeFn_eq_ok_iff, firstFailure_eq_none_iff, hstart, hmarker, mod_two_eq_iff_even_total (tb_le_one t 28),
    mod_two_eq_iff_even_total (tb_le_one t 35), mod_two_eq_iff_even_total (tb_le_one t 58)]
  simp only [and_assoc]

/-- Settles O19: the flip leaves the checks before its own group as they passed, and makes the group fail. -/
theorem singleBitFlipIsCaught : Obligations.SingleBitFlipIsCaught := by
  intro s f i hf
  have hexec {c : Cause} (hc : decodeFn (flipBit s.tel i) = .error c) :
      exec .decode { s with tel := flipBit s.tel i } = .next (withFailure c.kind c { s with tel := flipBit s.tel i }) :=
    exec_decode_of_error (s := { s with tel := flipBit s.tel i }) hc
  refine ⟨fun hlo hhi => hexec (c := .parMin) ?_, fun hlo hhi => hexec (c := .parHour) ?_,
    fun hlo hhi => hexec (c := .parDate) ?_⟩
  all_goals rw [decodeFn_flipBit hf (by omega) (by omega) (by omega) (by omega)]
  · rw [if_pos hhi]
  · rw [if_neg (by omega), if_pos hhi]
  · rw [if_neg (by omega), if_neg (by omega)]

/-- Settles O27: each word is its fields at their places, and the three registers are read-only on the bus. -/
theorem statusTimeDateLayout : Obligations.StatusTimeDateLayout := fun s =>
  ⟨statusWord_toNat s.status, timeWord_toNat s.time, dateWord_toNat s.date, fun _ => ⟨rfl, rfl, rfl⟩⟩

/-- Settles O28: the named codes by computation, the rest by cases on the constructor. -/
theorem outcomeCodes : Obligations.OutcomeCodes :=
  ⟨by decide, by decide, kind_code_le, cause_code_le, cause_kind_code, fun _ _ => cause_code_injective⟩

end Sys2Proof.Claims
end

section
/-! SUPPORT. Which accesses are accepted (00_scope R8, 20_memory R51 to R55, 70_reset_and_hazards R270), that an accepted one
completes, and the step that runs a written command. -/

namespace Sys2Proof.Machine

/-! ### The window -/

theorem ofOffset_eq_none {k : Nat} (h : 8 ≤ k) : RegName.ofOffset k = none := by
  cases hk : RegName.ofOffset k with
  | none => rfl
  | some r =>
    have hoffset := ofOffset_some hk
    have hle := offset_le_seven r
    omega

/-- The aligned addresses of the window are those of the registers (20_memory R51). -/
theorem exists_addrOf_eq {s : State} {a : Nat} (halign : a % 4 = 0) (hlo : 32 * s.baseIndex ≤ a)
    (hhi : a < 32 * s.baseIndex + 32) : ∃ r, s.addrOf r = a := by
  obtain ⟨r, hr⟩ := exists_offset_eq (k := (a - 32 * s.baseIndex) / 4) (by omega)
  refine ⟨r, ?_⟩
  rw [addrOf_eq, hr]
  omega

theorem regAt_eq_none {s : State} {a : Nat} (h : ¬(32 * s.baseIndex ≤ a ∧ a < 32 * s.baseIndex + 32)) :
    s.regAt a = none := by
  have hbase : s.coreBase = 32 * s.baseIndex := rfl
  rw [State.regAt, hbase]
  split
  · exact ofOffset_eq_none (by omega)
  · rfl

theorem classify_of_regAt_none {s : State} {a : Nat} (hreset : s.resetAsserted = false) (halign : a % 4 = 0)
    (h : s.regAt a = none) : classify s 32 a = .error .outOfWindow := by
  simp [classify, hreset, halign, h]

/-- While reset is asserted no access has a meaning (70_reset_and_hazards R270). -/
theorem classify_of_reset {s : State} (h : s.resetAsserted = true) (w a : Nat) : classify s w a = .error .duringReset :=
  if_pos h

/-! ### Accepted accesses complete -/

theorem exec_completes (i : Instr) (s : State) : ∃ t, exec i s = .next t := by
  by_cases hnop : i = .nop
  · exact ⟨s, hnop ▸ rfl⟩
  · obtain ⟨t, _, ht, -⟩ := exec_with_status hnop s s.status
    exact ⟨t, ht⟩

theorem execute_of_decode_ok {v : Word} {i : Instr} (h : decode v = .ok i) (s : State) : execute v s = exec i s := by
  rw [execute, h]

theorem execute_of_decode_error {v : Word} {e : Reject} (h : decode v = .error e) (s : State) :
    execute v s = .next (fail .illegal .illCmd s) := by
  rw [execute, h, illegalCommand]

theorem execute_completes (v : Word) (s : State) : ∃ t, execute v s = .next t := by
  cases h : decode v with
  | ok i => rw [execute_of_decode_ok h]; exact exec_completes i s
  | error e => exact ⟨_, execute_of_decode_error h s⟩

theorem regWrite_completes (r : RegName) (v : Word) (s : State) : ∃ t, regWrite r v s = .next t := by
  cases r with
  | cmd => exact execute_completes v s
  | telLo | telHi | status | time | date | aux | rsvd7 => exact ⟨_, rfl⟩

/-- No command touches TEL, the reset input or the window (10_state R20). -/
theorem exec_frame {i : Instr} {s t : State} (h : exec i s = .next t) :
    t.tel = s.tel ∧ t.resetAsserted = s.resetAsserted ∧ t.baseIndex = s.baseIndex := by
  obtain ⟨-, rfl⟩ | ⟨_, -, -, rfl⟩ | ⟨_, -, -, rfl⟩ | ⟨_, _, -, rfl⟩ | ⟨_, _, -, -, rfl⟩ | ⟨_, _, -, -, -, rfl⟩ |
    ⟨_, _, -, -, -, rfl⟩ := exec_cases h
  all_goals exact ⟨rfl, rfl, rfl⟩

theorem execute_frame {v : Word} {s t : State} (h : execute v s = .next t) :
    t.tel = s.tel ∧ t.resetAsserted = s.resetAsserted ∧ t.baseIndex = s.baseIndex := by
  obtain ⟨i, -, hexec⟩ | ⟨-, -, rfl⟩ := execute_cases h
  · exact exec_frame hexec
  · exact ⟨rfl, rfl, rfl⟩

theorem regWrite_frame {r : RegName} {v : Word} {s t : State} (h : regWrite r v s = .next t) :
    t.resetAsserted = s.resetAsserted ∧ t.baseIndex = s.baseIndex := by
  obtain ⟨-, rfl⟩ | ⟨-, rfl⟩ | ⟨-, hexecute⟩ | ⟨-, -, -, rfl⟩ := regWrite_cases h
  · exact ⟨rfl, rfl⟩
  · exact ⟨rfl, rfl⟩
  · obtain ⟨-, hreset, hbase⟩ := execute_frame hexecute
    exact ⟨hreset, hbase⟩
  · exact ⟨rfl, rfl⟩

/-! ### Legal schedules -/

theorem accessLegal_iff {base w a : Nat} :
    accessLegal base w a = true ↔ w = 32 ∧ a % 4 = 0 ∧ base ≤ a ∧ a < base + 32 := by
  simp [accessLegal, and_assoc]

/-- A legal access is a whole word at the address of a register. -/
theorem exists_addrOf_of_accessLegal {s : State} {w a : Nat} (h : accessLegal (32 * s.baseIndex) w a = true) :
    ∃ r, w = 32 ∧ a = s.addrOf r := by
  obtain ⟨hw, halign, hlo, hhi⟩ := accessLegal_iff.1 h
  obtain ⟨r, hr⟩ := exists_addrOf_eq halign hlo hhi
  exact ⟨r, hw, hr.symm⟩

/-- The first event of a legal schedule completes, and the rest is legal for the state it leaves. -/
theorem perform_of_scheduleLegal {ev : BusEvent} {rest : List BusEvent} {s : State}
    (h : scheduleLegal (32 * s.baseIndex) s.resetAsserted (ev :: rest) = true) :
    ∃ t, perform ev s = .next t ∧ scheduleLegal (32 * t.baseIndex) t.resetAsserted rest = true := by
  cases ev with
  | read w a =>
    simp only [scheduleLegal, Bool.and_eq_true, Bool.not_eq_true'] at h
    obtain ⟨⟨hreset, hlegal⟩, hrest⟩ := h
    obtain ⟨r, rfl, rfl⟩ := exists_addrOf_of_accessLegal hlegal
    exact ⟨_, perform_read hreset r, hrest⟩
  | write w a v =>
    simp only [scheduleLegal, Bool.and_eq_true, Bool.not_eq_true'] at h
    obtain ⟨⟨hreset, hlegal⟩, hrest⟩ := h
    obtain ⟨r, rfl, rfl⟩ := exists_addrOf_of_accessLegal hlegal
    obtain ⟨t, ht⟩ := regWrite_completes r v s
    obtain ⟨hheld, hbase⟩ := regWrite_frame ht
    exact ⟨t, (perform_write hreset r v).trans ht, by rw [hheld, hbase]; exact hrest⟩
  | assertReset => exact ⟨_, rfl, h⟩
  | releaseReset => exact ⟨_, rfl, h⟩

theorem performAll_of_scheduleLegal {evs : List BusEvent} {s : State}
    (h : scheduleLegal (32 * s.baseIndex) s.resetAsserted evs = true) : ∃ t, performAll evs s = .next t := by
  induction evs generalizing s with
  | nil => exact ⟨s, rfl⟩
  | cons ev rest ih =>
    obtain ⟨u, hu, hrest⟩ := perform_of_scheduleLegal h
    rw [performAll_cons_of_next hu]
    exact ih hrest

/-! ### Steps -/

theorem step_of_pending_nil {s : State} (h : s.pending = []) : step s = .next s := by
  rw [step, deliverNext, h]

theorem step_of_pending_cons {s : State} {ev : BusEvent} {rest : List BusEvent} (h : s.pending = ev :: rest) :
    step s = perform ev { s with pending := rest } := by
  rw [step, deliverNext, h]

/-- The step of a CMD write is the command on the state from which that access is taken. -/
theorem step_of_pending_cmdWrite {s : State} {v : Word} {rest : List BusEvent} (hreset : s.resetAsserted = false)
    (h : s.pending = .write 32 (32 * s.baseIndex + 8) v :: rest) : step s = execute v { s with pending := rest } :=
  (step_of_pending_cons h).trans (perform_write (s := { s with pending := rest }) hreset .cmd v)

end Sys2Proof.Machine

namespace Sys2Proof.Claims

open Sys2Proof.Machine

/-- Settles O34: the aligned addresses inside the 32 bytes are those of the registers, where every access completes, and no
register stands at another. -/
theorem windowBoundsTheAcceptedAddresses : Obligations.WindowBoundsTheAcceptedAddresses := by
  refine fun s a v hreset halign => ⟨fun ⟨hlo, hhi⟩ => ?_, fun hout => ?_⟩
  · obtain ⟨r, rfl⟩ := exists_addrOf_eq halign hlo hhi
    rw [perform_read hreset, perform_write hreset]
    exact ⟨⟨_, rfl⟩, regWrite_completes r v s⟩
  · have hrefused := classify_of_regAt_none hreset halign (regAt_eq_none hout)
    exact ⟨perform_read_of_error hrefused, perform_write_of_error hrefused v⟩

/-- Settles O37, by induction on the events: each completes and leaves the window's place, and the reset input as the schedule
says. -/
theorem legalSchedulesNeverStop : Obligations.LegalSchedulesNeverStop := fun _ _ => performAll_of_scheduleLegal

/-- Settles O35: the step performs the CMD write, and `execute` is the decoded command or the failure of an illegal word. -/
theorem stepRunsTheWrittenCommand : Obligations.StepRunsTheWrittenCommand := by
  refine ⟨fun s v i rest hreset hpending hi => ?_, fun s v e rest hreset hpending he => ?_,
    fun s => step_of_pending_nil⟩
  · rw [step_of_pending_cmdWrite hreset hpending, execute_of_decode_ok hi]
  · rw [step_of_pending_cmdWrite hreset hpending, execute_of_decode_error he]
    rfl

/-- Settles O39: the two reset events by computation, and the reset input is the first test of an access. -/
theorem resetEventSetsRegistersAndRefusesAccesses : Obligations.ResetEventSetsRegistersAndRefusesAccesses :=
  ⟨fun _ => rfl, fun _ => rfl, fun _ w a x hreset =>
    ⟨perform_read_of_error (classify_of_reset hreset w a), perform_write_of_error (classify_of_reset hreset w a) x⟩⟩

end Sys2Proof.Claims
end

section
/-! SUPPORT. What writes each register (10_state R20, R32, R35): TEL by host writes of its halves, STATUS and AUX by commands, and
all of them by reset. -/

namespace Sys2Proof.Machine

/-- An event leaves TEL, or it asserts reset, or it writes one of TEL's halves. -/
theorem perform_tel_cases {ev : BusEvent} {s t : State} (h : perform ev s = .next t) :
    t.tel = s.tel ∨ ev = .assertReset ∨
      ∃ v, ev = .write 32 (s.addrOf .telLo) v ∨ ev = .write 32 (s.addrOf .telHi) v := by
  obtain ⟨_, -, -, rfl⟩ | ⟨r, v, hev, -, hwrite⟩ | ⟨hev, -⟩ | ⟨-, rfl⟩ := perform_cases h
  · exact .inl rfl
  · obtain ⟨rfl, -⟩ | ⟨rfl, -⟩ | ⟨-, hexecute⟩ | ⟨-, -, -, rfl⟩ := regWrite_cases hwrite
    · exact .inr (.inr ⟨v, .inl hev⟩)
    · exact .inr (.inr ⟨v, .inr hev⟩)
    · exact .inl (execute_frame hexecute).1
    · exact .inl rfl
  · exact .inr (.inl hev)
  · exact .inl rfl

/-- An event leaves STATUS and AUX, or it asserts reset, or it writes a command word, which runs. -/
theorem perform_outcome_cases {ev : BusEvent} {s t : State} (h : perform ev s = .next t) :
    (t.status = s.status ∧ t.aux = s.aux) ∨ ev = .assertReset ∨
      ∃ v, ev = .write 32 (s.addrOf .cmd) v ∧ execute v s = .next t := by
  obtain ⟨_, -, -, rfl⟩ | ⟨r, v, hev, -, hwrite⟩ | ⟨hev, -⟩ | ⟨-, rfl⟩ := perform_cases h
  · exact .inl ⟨rfl, rfl⟩
  · obtain ⟨-, rfl⟩ | ⟨-, rfl⟩ | ⟨rfl, hexecute⟩ | ⟨-, -, -, rfl⟩ := regWrite_cases hwrite
    · exact .inl ⟨rfl, rfl⟩
    · exact .inl ⟨rfl, rfl⟩
    · exact .inr (.inr ⟨v, hev, hexecute⟩)
    · exact .inl ⟨rfl, rfl⟩
  · exact .inr (.inl hev)
  · exact .inl ⟨rfl, rfl⟩

/-- The same of a step, by the first event of its queue. -/
theorem step_outcome_cases {s t : State} (h : step s = .next t) :
    (t.status = s.status ∧ t.aux = s.aux) ∨ ∃ rest, s.pending = .assertReset :: rest ∨
      ∃ v, s.pending = .write 32 (32 * s.baseIndex + 8) v :: rest ∧ execute v { s with pending := rest } = .next t := by
  obtain ⟨-, rfl⟩ | ⟨ev, rest, hpending, hperform⟩ := step_cases h
  · exact .inl ⟨rfl, rfl⟩
  · obtain hsame | rfl | ⟨v, rfl, hexecute⟩ := perform_outcome_cases hperform
    · exact .inl hsame
    · exact .inr ⟨rest, .inl hpending⟩
    · exact .inr ⟨rest, .inr ⟨v, hpending, hexecute⟩⟩

theorem execute_nop_word (s : State) : execute 0x00000000#32 s = .next s :=
  execute_of_decode_ok ((decode_eq_nop_iff _).2 rfl) s

/-- A command leaves AUX, or is a BCD2 or a PARITY that succeeds (10_state R32). -/
theorem exec_aux_cases {i : Instr} {s t : State} (h : exec i s = .next t) :
    t.aux = s.aux ∨ (t.status.ok = true ∧ ((∃ bh bl, i = .bcd2 bh bl) ∨ ∃ a b, i = .parity a b)) := by
  obtain ⟨-, rfl⟩ | ⟨_, -, -, rfl⟩ | ⟨_, -, -, rfl⟩ | ⟨bh, bl, hi, rfl⟩ | ⟨a, b, hi, -, rfl⟩ | ⟨_, _, -, -, -, rfl⟩ |
    ⟨a, b, hi, -, -, rfl⟩ := exec_cases h
  · exact .inl rfl
  · exact .inl rfl
  · exact .inl rfl
  · exact .inr ⟨rfl, .inl ⟨bh, bl, hi⟩⟩
  · exact .inr ⟨rfl, .inr ⟨a, b, hi⟩⟩
  · exact .inl rfl
  · exact .inr ⟨rfl, .inr ⟨a, b, hi⟩⟩

end Sys2Proof.Machine

namespace Sys2Proof.Claims

open Sys2Proof.Machine

/-- Settles O43: a command's frame holds TEL, and of the events only the two TEL writes and reset do not. -/
theorem onlyTelWritesChangeTheTelegram : Obligations.OnlyTelWritesChangeTheTelegram := by
  refine ⟨fun _ _ _ h => (execute_frame h).1, fun s t hstep hchange => ?_⟩
  obtain ⟨-, rfl⟩ | ⟨ev, rest, hpending, hperform⟩ := step_cases hstep
  · exact absurd rfl hchange
  · obtain hsame | rfl | ⟨v, rfl | rfl⟩ := perform_tel_cases hperform
    · exact absurd hsame hchange
    · exact ⟨rest, .inl hpending⟩
    · exact ⟨rest, .inr ⟨v, .inl hpending⟩⟩
    · exact ⟨rest, .inr ⟨v, .inr hpending⟩⟩

/-- Settles O44: only a command word writes OK, KIND and CAUSE, and NOP's is none; VALID is part of the result slot. -/
theorem onlyCommandsWriteStatus : Obligations.OnlyCommandsWriteStatus := by
  refine fun s t hstep => ⟨fun hchange => ?_, fun hchange => ?_⟩
  · obtain ⟨hsame, -⟩ | ⟨rest, hpending | ⟨v, hpending, hexecute⟩⟩ := step_outcome_cases hstep
    · exact absurd (by rw [hsame]) hchange
    · exact ⟨rest, .inl hpending⟩
    · refine ⟨rest, .inr ⟨v, ?_, hpending⟩⟩
      rintro rfl
      cases (execute_nop_word _).symm.trans hexecute
      exact hchange rfl
  · obtain ⟨-, rfl⟩ | ⟨ev, rest, hpending, hperform⟩ := step_cases hstep
    · exact absurd rfl hchange
    · obtain ⟨hsame, -⟩ | rfl | ⟨rfl, hfirst, rfl⟩ := perform_slot_cases hperform
      · exact absurd hsame hchange
      · exact ⟨rest, .inl hpending⟩
      · exact ⟨rest, .inr ⟨hpending, hfirst, rfl⟩⟩

/-- Settles O46: AUX is read-only on the bus, and of the command words only those of BCD2 and PARITY can change it. -/
theorem onlyBcd2AndParityWriteAux : Obligations.OnlyBcd2AndParityWriteAux := by
  refine ⟨fun _ _ => rfl, fun s t hstep hchange => ?_⟩
  obtain ⟨-, hsame⟩ | ⟨rest, hpending | ⟨v, hpending, hexecute⟩⟩ := step_outcome_cases hstep
  · exact absurd hsame hchange
  · exact ⟨rest, .inl hpending⟩
  · obtain ⟨i, hi, hexec⟩ | ⟨-, -, rfl⟩ := execute_cases hexecute
    · obtain hsame | ⟨hok, hcommand⟩ := exec_aux_cases hexec
      · exact absurd hsame hchange
      · exact ⟨rest, .inr ⟨v, i, hpending, hi, hok, hcommand⟩⟩
    · exact absurd rfl hchange

end Sys2Proof.Claims
end

section
/-! SUPPORT. The host's `lastResult` after a decode (40_input_adapters R105, R106), and the bus order of two hosts (20_memory
R65). -/

namespace Sys2Proof.Machine

open Sys2Proof.Claims

/-! ### What a host decode leaves in the slot -/

section HostDecode

variable {γ : Type} [DecidableEq γ] {zero one : γ} {x : ExternalForm γ} {s t : State}

/-- While reset is asserted the first access of `decode(x)` is refused (70_reset_and_hazards R270). -/
theorem hostDecode_of_reset {bits : Telegram} (hnorm : normInput zero one x = .ok bits) (hreset : s.resetAsserted = true) :
    hostDecode zero one x s = .refused .duringReset := by
  have hwrite (r : RegName) (v : Word) : hostWrite r v s = .refused .duringReset :=
    perform_write_of_error (classify_of_reset hreset 32 _) v
  simp only [hostDecode, hnorm, hostLoadTelegram, hwrite, andThen]

/-- A `decode` that returns at all either failed to normalize its input or ran with reset released. -/
theorem hostDecode_next_cases {r : Except ErrorKind DecodeResult} (h : hostDecode zero one x s = .next (t, r)) :
    (t = s ∧ r = .error .invalidLength) ∨ (s.resetAsserted = false ∧ ∃ bits, normInput zero one x = .ok bits) := by
  cases hnorm : normInput zero one x with
  | error e =>
    obtain rfl := normInput_error hnorm
    cases (hostDecode_of_norm_error hnorm s).symm.trans h
    exact .inl ⟨rfl, rfl⟩
  | ok bits =>
    cases hreset : s.resetAsserted with
    | false => exact .inr ⟨rfl, bits, rfl⟩
    | true => cases (hostDecode_of_reset hnorm hreset).symm.trans h

/-- A `decode` that returned a result left it in the slot. -/
theorem hostDecode_ok_slot {r : DecodeResult} (h : hostDecode zero one x s = .next (t, .ok r)) :
    t.resetAsserted = false ∧ t.status.valid = true ∧ r = ⟨t.time.word, t.date.word⟩ := by
  obtain ⟨-, hr⟩ | ⟨hreset, bits, hnorm⟩ := hostDecode_next_cases h
  · cases hr
  · cases hfirst : firstFailure bits with
    | none =>
      obtain ⟨log, hdecode⟩ := hostDecode_of_firstFailure_none hnorm hreset hfirst
      cases hdecode.symm.trans h
      refine ⟨hreset, rfl, ?_⟩
      rw [← time_extract_word, ← date_extract_word]
      rfl
    | some c =>
      obtain ⟨log, hdecode⟩ := hostDecode_of_firstFailure_some hnorm hreset hfirst
      cases hdecode.symm.trans h

/-- A `decode` that returned an error left the slot and the reset input. -/
theorem hostDecode_error_slot {e : ErrorKind} (h : hostDecode zero one x s = .next (t, .error e)) :
    t.resetAsserted = s.resetAsserted ∧ SameSlot s t := by
  obtain ⟨rfl, -⟩ | ⟨hreset, bits, hnorm⟩ := hostDecode_next_cases h
  · exact ⟨rfl, rfl, rfl, rfl⟩
  · cases hfirst : firstFailure bits with
    | none =>
      obtain ⟨log, hdecode⟩ := hostDecode_of_firstFailure_none hnorm hreset hfirst
      cases hdecode.symm.trans h
    | some c =>
      obtain ⟨log, hdecode⟩ := hostDecode_of_firstFailure_some hnorm hreset hfirst
      cases hdecode.symm.trans h
      exact ⟨rfl, rfl, rfl, rfl⟩

end HostDecode

/-! ### The bus order of two hosts -/

/-- Choosing at each turn the host whose access comes next gives the merged order back. -/
theorem busOrder_marks (merged : List (Bool × BusEvent)) :
    busOrder (merged.map fun p => p.1) ((merged.filter fun p => p.1).map fun p => p.2)
      ((merged.filter fun p => !p.1).map fun p => p.2) = merged.map fun p => p.2 := by
  induction merged with
  | nil => rfl
  | cons p rest ih =>
    obtain ⟨host, ev⟩ := p
    cases host with
    | true => simp [busOrder, ih]
    | false => simp [busOrder, ih]

/-- `merged` holds the accesses of each host in that host's own order, marked `true` for the first and `false` for the second. -/
def IsMerge (first second : List BusEvent) (merged : List (Bool × BusEvent)) : Prop :=
  (merged.filter fun p => p.1).map (fun p => p.2) = first ∧ (merged.filter fun p => !p.1).map (fun p => p.2) = second

section Merge

variable {first second : List BusEvent} {merged : List (Bool × BusEvent)}

theorem isMerge_cons_first (a : BusEvent) (h : IsMerge first second merged) :
    IsMerge (a :: first) second ((true, a) :: merged) := ⟨congrArg (a :: ·) h.1, h.2⟩

theorem isMerge_cons_second (b : BusEvent) (h : IsMerge first second merged) :
    IsMerge first (b :: second) ((false, b) :: merged) := ⟨h.1, congrArg (b :: ·) h.2⟩

/-- One host's accesses after the other's. -/
theorem isMerge_append (first second : List BusEvent) :
    IsMerge first second (first.map (Prod.mk true) ++ second.map (Prod.mk false)) := by
  simp [IsMerge, List.filter_map, Function.comp_def]

end Merge

/-- Every result of `busOrder` is a merge, by the recursion of `busOrder`: a choice takes one host's next access, or is passed over
when that host has none. -/
theorem exists_isMerge_busOrder (choices : List Bool) (first second : List BusEvent) :
    ∃ merged, IsMerge first second merged ∧ busOrder choices first second = merged.map fun p => p.2 := by
  induction choices, first, second using busOrder.induct with
  | case1 as bs => exact ⟨_, isMerge_append as bs, by simp [busOrder, Function.comp_def]⟩
  | case2 cs a as bs ih =>
    obtain ⟨merged, hmerge, horder⟩ := ih
    exact ⟨_, isMerge_cons_first a hmerge, by rw [busOrder, horder, List.map_cons]⟩
  | case3 cs bs ih =>
    obtain ⟨merged, hmerge, horder⟩ := ih
    exact ⟨merged, hmerge, by rw [busOrder, horder]⟩
  | case4 cs as b bs ih =>
    obtain ⟨merged, hmerge, horder⟩ := ih
    exact ⟨_, isMerge_cons_second b hmerge, by rw [busOrder, horder, List.map_cons]⟩
  | case5 cs as ih =>
    obtain ⟨merged, hmerge, horder⟩ := ih
    exact ⟨merged, hmerge, by rw [busOrder, horder]⟩

end Sys2Proof.Machine

namespace Sys2Proof.Claims

open Sys2Proof.Machine

/-- Settles O51: a decode that returned a result left it in the slot, and one that returned an error leaves the slot. -/
theorem lastResultSurvivesFailedDecodes : Obligations.LastResultSurvivesFailedDecodes := by
  refine ⟨fun s h hreset hvalid => ?_, fun γ _ zero one x y s t u r e hx hy => ?_⟩
  · obtain ⟨htime, hdate⟩ := h.slot.empty hvalid
    rw [lastResult_eq hreset, regRead, regRead, htime, hdate, timeReset_word, dateReset_word]
    exact ⟨_, rfl⟩
  · obtain ⟨hreset, hvalid, rfl⟩ := hostDecode_ok_slot hx
    obtain ⟨hheld, hsame, htime, hdate⟩ := hostDecode_error_slot hy
    refine ⟨hsame.trans hvalid, ?_⟩
    rw [lastResult_eq (hheld.trans hreset), ← htime, ← hdate]
    exact ⟨_, rfl⟩

/-- Settles O55: the marks of a merged order are the choices that give it, and the accesses that `busOrder` takes carry their host
as a mark. -/
theorem everyInterleavingOfTwoHostsIsAdmitted : Obligations.EveryInterleavingOfTwoHostsIsAdmitted := by
  refine ⟨fun merged => ⟨_, busOrder_marks merged⟩, fun choices first second => ?_⟩
  obtain ⟨merged, ⟨hfirst, hsecond⟩, horder⟩ := exists_isMerge_busOrder choices first second
  exact ⟨merged, hfirst, hsecond, horder⟩

end Sys2Proof.Claims
end
